-- ==== Sys2Proof/Word.lean ====
section
/-! DEFINITION. The words of FEP and the closed sets of names its specification uses: registers,
phases, error codes, pixel classes, gradient directions, and the shape of one host access. -/

namespace Sys2Proof

/-- One sample, or one byte of SRC or DST (30_encoding.md R74). -/
abbrev Byte := BitVec 8

/-- One host register (10_state.md R10, 92_eei_decisions.md D2). -/
abbrev Word := BitVec 32

/-- The eleven host registers of the register map (30_encoding.md R61). -/
inductive Reg where
  | cmd | status | err | ctrl | width | height | srcLen | outLen | cap | thresh | coef
  deriving DecidableEq, Repr

/-- The twelve phases (10_state.md R14); the reserved codes 12 to 15 are unrepresentable
(30_encoding.md R70). -/
inductive Phase where
  | idle | validate | extract | gaussH | gaussV | grad | nms | classify | hyst | flatten
  | complete | failed
  deriving DecidableEq, Repr

/-- The error codes of ERR (30_encoding.md R64). -/
inductive ErrCode where
  | none | invalidDimensions | bufferTooSmall | allocationFailure
  deriving DecidableEq, Repr

/-- The class of a pixel in store CLS: 0 none, 1 weak, 2 strong (10_state.md R20); the value 3 is
unrepresentable (30_encoding.md R70). -/
inductive Cls where
  | none | weak | strong
  deriving DecidableEq, Repr, Inhabited

/-- The four quantised gradient directions (43_canny.md R131, R132): 0 along the row, 1 along the
main diagonal, 2 along the column, 3 along the anti-diagonal. -/
inductive Dir where
  | row | mainDiag | column | antiDiag
  deriving DecidableEq, Repr

/-- The address space and direction that select a host access (20_memory.md R40). A host write to
DST exists only to be refused (60_exceptions.md R173). -/
inductive Select where
  | regRead | regWrite | srcRead | srcWrite | dstRead | dstWrite
  deriving DecidableEq, Repr

/-- One access as it stands on the host port: what selects it, how many bytes of data it moves, and
the operand bits of its opcode-table row, least significant byte first (log 13). -/
structure Txn where
  select : Select
  size   : Nat
  bytes  : List Byte
  deriving DecidableEq, Repr

/-- The two things that select an operation (30_encoding.md R69): an access on the host port, or the
4-bit PHASE code (R67). -/
inductive Encoding where
  | port (t : Txn)
  | phase (code : BitVec 4)
  deriving DecidableEq, Repr

end Sys2Proof
end

