-- ==== Sys2Proof/Config.lean ====
section
/-! DEFINITION. What is fixed for the machine: the parameters the source fixes (00_scope.md R4), the
parameters the spec decides (R5), the two open capacities as a type, and the free values the spec
leaves open. -/

namespace Sys2Proof

/-- T_LOW (00_scope.md R4, 43_canny.md R136). -/
def Config.tLow : Nat := 50

/-- T_HIGH (00_scope.md R4, 43_canny.md R136). -/
def Config.tHigh : Nat := 150

/-- EDGE_MARK (00_scope.md R4). -/
def Config.edgeMark : Byte := 255

/-- NON_EDGE (00_scope.md R4). -/
def Config.nonEdge : Byte := 0

/-- GAUSS_COEF, the five tap weights K[0..4] (42_gaussian_fir.md R111). -/
def Config.taps : List Nat := [31, 60, 74, 60, 31]

/-- The weight K[j]. -/
def Config.tap (j : Nat) : Nat := Config.taps.getD j 0

/-- GAUSS_SHIFT: the weights sum to 2^8 (42_gaussian_fir.md R111). -/
def Config.gaussShift : Nat := 8

/-- TAN22 numerator: 13573 / 32768 approximates tan 22.5 degrees (00_scope.md R5, 43_canny.md R131). -/
def Config.tan22 : Int := 13573

/-- TAN22 denominator. -/
def Config.tanOne : Int := 32768

/-- The gradient magnitude norms of 43_canny.md R129. -/
inductive MagNorm where
  | l1 | l2sq
  deriving DecidableEq, Repr

/-- MAG_NORM: L1, the spec's decision (00_scope.md R5, 92_eei_decisions.md D18). The alternative
L2SQ of 43_canny.md R129 is had by changing this one line (log 18). -/
abbrev Config.magNorm : MagNorm := .l1

/-- Width of an element of MAG: u11 under L1 (10_state.md R20), u21 under L2SQ (43_canny.md R129). -/
abbrev Config.magWidth : Nat :=
  match Config.magNorm with
  | .l1 => 11
  | .l2sq => 21

/-- The two OPEN parameters (00_scope.md R5, 92_eei_decisions.md D9), arguments of the model that a
state carries unchanged (log 1). -/
structure Caps where
  /-- MAX_PIXELS, capacity in pixels of every plane store and of DST. -/
  maxPixels : Nat
  /-- SRC_CAP, size in bytes of SRC. -/
  srcCap    : Nat
  deriving DecidableEq, Repr

/-- The range of the open parameters: 1 ≤ MAX_PIXELS ≤ SRC_CAP ≤ 2^32 − 1 (92_eei_decisions.md,
table of open parameters). -/
abbrev Caps.Wf (c : Caps) : Prop :=
  1 ≤ c.maxPixels ∧ c.maxPixels ≤ c.srcCap ∧ c.srcCap < 2 ^ 32

/-- The capacities the spec's test vectors and programs use (95_test_vectors.md, opening).
DESIGN CHOICE, log 1. -/
def Config.resetCaps : Caps := { maxPixels := 4096, srcCap := 6144 }

/-! Free values. Each is a constant without a body, applied to a count that State holds and to an index;
nothing can be proved of what it yields. -/

/-- The byte a SRC index holds before the host has written it, by the count of resets so far: one value
from a reset to the next (20_memory.md R59, R50). Log 4. -/
opaque Config.freeSrc : Nat → Nat → Byte

/-- A DST byte read outside the DONE window, by the count of values returned so far: it may differ from
read to read (20_memory.md R58). Log 5. -/
opaque Config.freeDst : Nat → Nat → Byte

/-- Which of the bytes a raced SRC index held the engine uses (20_memory.md R58, row 4). Log 7. -/
opaque Config.raceChoice : Nat → Nat → Nat

/-- An element of LUMA no phase has written (10_state.md R21). Log 6. -/
opaque Config.freeLuma : Nat → Nat → Byte

/-- An element of HBLUR no phase has written (10_state.md R21). Log 6. -/
opaque Config.freeHblur : Nat → Nat → Byte

/-- An element of BLUR no phase has written (10_state.md R21). Log 6. -/
opaque Config.freeBlur : Nat → Nat → Byte

/-- An element of GX no phase has written (10_state.md R21). Log 6. -/
opaque Config.freeGx : Nat → Nat → BitVec 11

/-- An element of GY no phase has written (10_state.md R21). Log 6. -/
opaque Config.freeGy : Nat → Nat → BitVec 11

/-- An element of MAG no phase has written (10_state.md R21). Log 6. -/
opaque Config.freeMag : Nat → Nat → BitVec Config.magWidth

/-- An element of NMSK no phase has written (10_state.md R21). Log 6. -/
opaque Config.freeNmsk : Nat → Nat → Bool

/-- An element of CLS no phase has written (10_state.md R21). Log 6. -/
opaque Config.freeCls : Nat → Nat → Cls

/-- An element of EDGE no phase has written (10_state.md R21). Log 6. -/
opaque Config.freeEdge : Nat → Nat → Bool

end Sys2Proof
end

