-- ==== Sys2Proof/Syntax.lean ====
section
/-! DEFINITION. The operations of FEP, one constructor per row of spec/opcode_table.json. -/

namespace Sys2Proof

/-- The complete list of operations (30_encoding.md R69). -/
inductive Instr where
  /-- RD: host register read (40_host_commands.md R80). -/
  | rd (r : Reg)
  /-- WR: host register write (R81). -/
  | wr (r : Reg) (v : Word)
  /-- SRCWR: host byte write to SRC (R91). -/
  | srcwr (i : BitVec 32) (b : Byte)
  /-- SRCRD: host byte read of SRC (R92). -/
  | srcrd (i : BitVec 32)
  /-- DSTRD: host byte read of DST (R93). -/
  | dstrd (i : BitVec 32)
  /-- NOP: CMD = 0 (R86). -/
  | nop
  /-- PROCESS: CMD = 1 (R87). -/
  | process
  /-- ACK: CMD = 2 (R88). -/
  | ack
  /-- VALIDATE: PHASE = 1 (41_validate_extract.md R100). -/
  | validate
  /-- EXTRACT: PHASE = 2 (R104). -/
  | extract
  /-- GAUSS_H: PHASE = 3 (42_gaussian_fir.md R115). -/
  | gaussH
  /-- GAUSS_V: PHASE = 4 (R116). -/
  | gaussV
  /-- GRAD: PHASE = 5 (43_canny.md R126). -/
  | grad
  /-- NMS: PHASE = 6 (R135). -/
  | nms
  /-- CLASSIFY: PHASE = 7 (R137). -/
  | classify
  /-- HYST: PHASE = 8 (R138). -/
  | hyst
  /-- FLATTEN: PHASE = 9 (44_flatten.md R150). -/
  | flatten
  deriving DecidableEq, Repr

end Sys2Proof
end

