-- ==== Sys2Proof/WellFormed.lean ====
section
/-! DEFINITION. Which terms of Instr stand for an access the block gives a meaning. -/

namespace Sys2Proof

/-- A CMD word with a command of its own: NOP, PROCESS or ACK (30_encoding.md R62). -/
def isCommandWord (v : Word) : Bool := v = 0 || v = 1 || v = 2

/-- A buffer index is inside its space (60_exceptions.md R173), and a write to CMD carries a reserved
word: the three legal words ARE the commands NOP, PROCESS and ACK (30_encoding.md R72; log 14). -/
def Instr.wellFormed (c : Caps) : Instr → Bool
  | .rd _ => true
  | .wr r v => r ≠ .cmd || !isCommandWord v
  | .srcwr i _ => i.toNat < c.srcCap
  | .srcrd i => i.toNat < c.srcCap
  | .dstrd i => i.toNat < c.maxPixels
  | .nop => true
  | .process => true
  | .ack => true
  | .validate => true
  | .extract => true
  | .gaussH => true
  | .gaussV => true
  | .grad => true
  | .nms => true
  | .classify => true
  | .hyst => true
  | .flatten => true

end Sys2Proof
end

