-- ==== Sys2Proof/Decode.lean ====
section
/-! DEFINITION. From an access on the host port, or a PHASE code, to an operation, and back; total on
any bytes, rejecting by name. After the decoder the encoder, and the decoder of the opcode table's
words. -/

namespace Sys2Proof

/-- Why an encoding stands for no operation. The first five are the refused accesses of
60_exceptions.md R173 and 20_memory.md R41 to R43. -/
inductive DecodeError where
  /-- A REG access that is not 32 bits wide. -/
  | regNotWord
  /-- A REG access at an offset that is not a multiple of 4. -/
  | regMisaligned
  /-- A REG access at offset 0x2C or above. -/
  | regUnmapped
  /-- A SRC or DST access that is not a single byte. -/
  | bufferNotByte
  /-- A host write to DST. -/
  | dstWrite
  /-- The operand bytes are not those of the row's pattern. -/
  | badPayload
  /-- A PHASE code with no engine operation (IDLE, COMPLETE, FAILED, 12 to 15). -/
  | restingPhase
  deriving DecidableEq, Repr

/-! ### Words and bytes (20_memory.md R48: little-endian) -/

/-- The 32-bit word whose bytes are given, least significant first. -/
def wordOfBytes (b0 b1 b2 b3 : Byte) : Word := b3 ++ b2 ++ b1 ++ b0

/-- Byte `k` of a word: bits [8k+7 : 8k]. -/
def byteOfWord (w : Word) (k : Nat) : Byte := w.extractLsb' (8 * k) 8

/-- The four bytes of a word, least significant first. -/
def bytesOfWord (w : Word) : List Byte :=
  [byteOfWord w 0, byteOfWord w 1, byteOfWord w 2, byteOfWord w 3]

/-! ### Registers (30_encoding.md R61) -/

/-- The byte offset of a register. -/
def regOffset : Reg → Byte
  | .cmd => 0x00
  | .status => 0x04
  | .err => 0x08
  | .ctrl => 0x0C
  | .width => 0x10
  | .height => 0x14
  | .srcLen => 0x18
  | .outLen => 0x1C
  | .cap => 0x20
  | .thresh => 0x24
  | .coef => 0x28

/-- The register at a byte offset (30_encoding.md R61; 20_memory.md R41 for the refusals). -/
def decodeOffset (o : Byte) : Except DecodeError Reg :=
  if o.toNat % 4 ≠ 0 then .error .regMisaligned
  else match o.toNat / 4 with
    | 0 => .ok .cmd
    | 1 => .ok .status
    | 2 => .ok .err
    | 3 => .ok .ctrl
    | 4 => .ok .width
    | 5 => .ok .height
    | 6 => .ok .srcLen
    | 7 => .ok .outLen
    | 8 => .ok .cap
    | 9 => .ok .thresh
    | 10 => .ok .coef
    | _ => .error .regUnmapped

/-- A 32-bit write at an offset. At CMD the word is a command (30_encoding.md R62); a reserved word is
still a write, whose effect is to set ILL (R70; 40_host_commands.md R89). -/
def decodeWrite (r : Reg) (v : Word) : Instr :=
  match r with
  | .cmd => if v = 0 then .nop else if v = 1 then .process else if v = 2 then .ack else .wr .cmd v
  | r => .wr r v

/-! ### Accesses and phases -/

/-- The operation of a host access (30_encoding.md R60, R69). The payload follows the row's pattern in
spec/opcode_table.json: for WR the data in bits [31:0] and the offset above it, for SRCWR the sample
in bits [7:0] and the index above it. -/
def decodeTxn (t : Txn) : Except DecodeError Instr :=
  match t.select with
  | .regRead =>
    if t.size ≠ 4 then .error .regNotWord
    else match t.bytes with
      | [o] => (decodeOffset o).map .rd
      | _ => .error .badPayload
  | .regWrite =>
    if t.size ≠ 4 then .error .regNotWord
    else match t.bytes with
      | [d0, d1, d2, d3, o] => (decodeOffset o).map fun r => decodeWrite r (wordOfBytes d0 d1 d2 d3)
      | _ => .error .badPayload
  | .srcWrite =>
    if t.size ≠ 1 then .error .bufferNotByte
    else match t.bytes with
      | [b, i0, i1, i2, i3] => .ok (.srcwr (wordOfBytes i0 i1 i2 i3) b)
      | _ => .error .badPayload
  | .srcRead =>
    if t.size ≠ 1 then .error .bufferNotByte
    else match t.bytes with
      | [i0, i1, i2, i3] => .ok (.srcrd (wordOfBytes i0 i1 i2 i3))
      | _ => .error .badPayload
  | .dstRead =>
    if t.size ≠ 1 then .error .bufferNotByte
    else match t.bytes with
      | [i0, i1, i2, i3] => .ok (.dstrd (wordOfBytes i0 i1 i2 i3))
      | _ => .error .badPayload
  | .dstWrite => .error .dstWrite

/-- The 4-bit code of a phase (30_encoding.md R67). -/
def phaseCode : Phase → BitVec 4
  | .idle => 0
  | .validate => 1
  | .extract => 2
  | .gaussH => 3
  | .gaussV => 4
  | .grad => 5
  | .nms => 6
  | .classify => 7
  | .hyst => 8
  | .flatten => 9
  | .complete => 10
  | .failed => 11

/-- The engine operation a PHASE code names (30_encoding.md R67, R69). -/
def decodePhase (p : BitVec 4) : Except DecodeError Instr :=
  match p.toNat with
  | 1 => .ok .validate
  | 2 => .ok .extract
  | 3 => .ok .gaussH
  | 4 => .ok .gaussV
  | 5 => .ok .grad
  | 6 => .ok .nms
  | 7 => .ok .classify
  | 8 => .ok .hyst
  | 9 => .ok .flatten
  | _ => .error .restingPhase

/-- The decoder: total, rejecting by name. -/
def decode : Encoding → Except DecodeError Instr
  | .port t => decodeTxn t
  | .phase p => decodePhase p

/-! ### The encoder, from the same tables -/

/-- The access of a 32-bit register write. -/
def writeTxn (r : Reg) (v : Word) : Txn :=
  { select := .regWrite, size := 4, bytes := bytesOfWord v ++ [regOffset r] }

/-- What selects an operation. NOP, PROCESS and ACK are the writes of 0, 1 and 2 to CMD
(30_encoding.md R72). -/
def encode : Instr → Encoding
  | .rd r => .port { select := .regRead, size := 4, bytes := [regOffset r] }
  | .wr r v => .port (writeTxn r v)
  | .srcwr i b => .port { select := .srcWrite, size := 1, bytes := b :: bytesOfWord i }
  | .srcrd i => .port { select := .srcRead, size := 1, bytes := bytesOfWord i }
  | .dstrd i => .port { select := .dstRead, size := 1, bytes := bytesOfWord i }
  | .nop => .port (writeTxn .cmd 0)
  | .process => .port (writeTxn .cmd 1)
  | .ack => .port (writeTxn .cmd 2)
  | .validate => .phase 1
  | .extract => .phase 2
  | .gaussH => .phase 3
  | .gaussV => .phase 4
  | .grad => .phase 5
  | .nms => .phase 6
  | .classify => .phase 7
  | .hyst => .phase 8
  | .flatten => .phase 9

/-! ### The opcode table's words -/

/-- The lowest `n` bytes of a number, least significant first. -/
def bytesOfNat : Nat → Nat → List Byte
  | 0, _ => []
  | n + 1, w => BitVec.ofNat 8 w :: bytesOfNat n (w / 256)

/-- The encoding whose operand bits are `w`, of an opcode-table row of `nbits` bits. The table gives the
accesses no opcode (30_encoding.md R60), so rows of one width are told apart as log 15 says: one byte
is a PHASE code if it names an engine operation, else an RD offset; four bytes are a CMD word if it
is a command, else an SRCRD index; five bytes are a WR if the top byte is an offset above 0x00 on the
register map, else an SRCWR. -/
def tableEncoding (nbits w : Nat) : Encoding :=
  if nbits ≤ 8 then
    if nbits ≠ 6 && 1 ≤ w && w ≤ 9 then .phase (BitVec.ofNat 4 w)
    else .port { select := .regRead, size := 4, bytes := bytesOfNat 1 w }
  else if nbits ≤ 32 then
    if w ≤ 2 then .port (writeTxn .cmd (BitVec.ofNat 32 w))
    else .port { select := .srcRead, size := 1, bytes := bytesOfNat 4 w }
  else
    let top := w / 2 ^ 32
    if nbits < 40 || (4 ≤ top && top ≤ 0x28 && top % 4 = 0) then
      .port { select := .regWrite, size := 4, bytes := bytesOfNat 5 w }
    else .port { select := .srcWrite, size := 1, bytes := bytesOfNat 5 w }

/-- The operation this decoder reads from an opcode-table word. -/
def decodeTableWord (nbits w : Nat) : Option Instr :=
  match decode (tableEncoding nbits w) with
  | .ok i => some i
  | .error _ => none

end Sys2Proof
end

