-- ==== Sys2Proof/Machine/State.lean ====
section
/-! DEFINITION. The state of FEP as plain data, the reasons a step can stop, and the state after
reset. -/

namespace Sys2Proof.Machine

/-- A buffer memory (20_memory.md R40): pairs of index and byte, indices strictly rising. An unlisted
index holds no value; what a read of it yields is a free value (logs 4 and 5). -/
abbrev Memory := List Host.Cell

/-- The canonical form of a memory: indices strictly rising. No entry can equal what an unlisted
index reads as, since that index holds no value. -/
def Memory.wf : Memory → Bool
  | [] => true
  | [_] => true
  | (a, _) :: (b, y) :: m => a < b && Memory.wf ((b, y) :: m)

/-- The nine plane stores (10_state.md R20), each row-major with element [r][c] at index r·W + c, as
the list of its elements; the empty list is a store that holds nothing (R21). -/
structure Planes where
  luma  : List Byte
  hblur : List Byte
  blur  : List Byte
  gx    : List (BitVec 11)
  gy    : List (BitVec 11)
  mag   : List (BitVec Config.magWidth)
  nmsk  : List Bool
  cls   : List Cls
  edge  : List Bool
  deriving DecidableEq, Repr

/-- Plane stores that hold nothing (10_state.md R21). -/
def Planes.empty : Planes :=
  { luma := [], hblur := [], blur := [], gx := [], gy := [], mag := [], nmsk := [], cls := [],
    edge := [] }

/-- What the outside does to the block: one access on the host port, or the reset input asserted
(70_reset_and_hazards.md R190, R204). -/
inductive HostEvent where
  | access (t : Txn)
  | reset
  deriving DecidableEq, Repr

/-- A host event to come, and how many engine steps may pass before it lands
(93_implementation_defined.md V11; log 2). -/
structure Arrival where
  gap   : Nat
  event : HostEvent
  deriving DecidableEq, Repr

/-- A value a host read returned (40_host_commands.md R80, R92, R93). -/
inductive Reply where
  | word (v : Word)
  | byte (b : Byte)
  deriving DecidableEq, Repr

/-- The state. The first twelve fields are what the spec gives the machine (10_state.md); the rest
are the model's own (INVENTORY.md, State). -/
structure State where
  /-- PHASE (R14); BUSY, DONE and FAIL are functions of it (R16). -/
  phase   : Phase
  /-- STATUS.OVR (R15). -/
  ovr     : Bool
  /-- STATUS.ILL (R15). -/
  ill     : Bool
  /-- ERR.CODE (R13). -/
  err     : ErrCode
  /-- CTRL.IE (R17). -/
  ie      : Bool
  /-- WIDTH, s32 (R10). -/
  width   : Word
  /-- HEIGHT, s32 (R10). -/
  height  : Word
  /-- SRC_LEN, u32 (R10). -/
  srcLen  : Word
  /-- OUT_LEN, u32 (R12). -/
  outLen  : Word
  /-- The nine plane stores (R20). -/
  planes  : Planes
  /-- SRC (R22). -/
  src     : Memory
  /-- DST (R23). -/
  dst     : Memory
  /-- The model's two open arguments; no step changes them (log 1). -/
  caps    : Caps
  /-- The host events to come, in program order (log 2). -/
  inbox   : List Arrival
  /-- The values the host's reads returned, newest first (log 9). -/
  replies : List Reply
  /-- SRC indices below W·H that the host overwrote in the running call before the engine read them,
  each with what it held before (log 7). -/
  raced   : List (Nat × Option Byte)
  /-- How many resets there were: it tells apart what SRC held before the host wrote it (log 4). -/
  resets  : Nat
  /-- How many engine phases and resets there were: it tells apart what elements that no phase has
  written and raced bytes read as (logs 6 and 7). -/
  draws   : Nat
  deriving DecidableEq, Repr

/-- Why the machine stops. Each is raised only in states no run reaches, and is safe (log 17). -/
inductive Fault where
  /-- An engine operation on a frame of more than MAX_PIXELS pixels, for which no plane store has
  room (10_state.md R20); raised by EXTRACT to HYST. Safe. -/
  | storeOverflow
  /-- EXTRACT would read a SRC index at or above SRC_CAP (20_memory.md R42); raised by EXTRACT. Safe. -/
  | srcIndexAbsent
  /-- FLATTEN would write a DST index at or above MAX_PIXELS (20_memory.md R43); raised by FLATTEN.
  Safe. -/
  | dstIndexAbsent
  deriving DecidableEq, Repr

/-- Why an operation has no meaning. -/
inductive Refusal where
  /-- An instruction without a meaning in the model; raised by exec's refused arms only. Safe. -/
  | notModelled (mnemonic : String)
  /-- A host access the decoder rejects (60_exceptions.md R173); raised by step. Safe. -/
  | hostAccess (e : DecodeError)
  /-- A host access to SRC at an index at or above SRC_CAP (R173); raised by SRCWR and SRCRD. Safe. -/
  | srcOutOfRange
  /-- A host read of DST at an index at or above MAX_PIXELS (R173); raised by DSTRD. Safe. -/
  | dstOutOfRange
  deriving DecidableEq, Repr

/-- The state right after reset (10_state.md R27). SRC, DST and the plane stores are unspecified: nothing
is listed. The model's own fields as logs 1, 2, 4, 6, 7 and 9 say (DESIGN CHOICE). -/
def State.reset : State :=
  { phase := .idle, ovr := false, ill := false, err := .none, ie := false,
    width := 0, height := 0, srcLen := 0, outLen := 0,
    planes := Planes.empty, src := [], dst := [],
    caps := Config.resetCaps, inbox := [], replies := [], raced := [], resets := 0,
    draws := 0 }

end Sys2Proof.Machine
end

