-- ==== Sys2Proof/Machine/Operands.lean ====
section
/-! DEFINITION. Operand forms: the operands of a call, the row-major index, clamped indices, elements
of a plane, bytes of a buffer. -/

namespace Sys2Proof.Machine

/-! ### The operands of a call (30_encoding.md R68) -/

/-- W: WIDTH as a two's-complement integer. -/
def State.wInt (s : State) : Int := s.width.toInt

/-- H: HEIGHT as a two's-complement integer. -/
def State.hInt (s : State) : Int := s.height.toInt

/-- L: SRC_LEN, unsigned. -/
def State.len (s : State) : Nat := s.srcLen.toNat

/-- W as a count of columns; 0 where W is negative, which VALIDATE excludes (log 24). -/
def State.w (s : State) : Nat := s.wInt.toNat

/-- H as a count of rows; 0 where H is negative, which VALIDATE excludes (log 24). -/
def State.h (s : State) : Nat := s.hInt.toNat

/-- W·H, the number of pixels. -/
def State.pixels (s : State) : Nat := s.w * s.h

/-! ### Indices -/

/-- `idx(r, c) = r·W + c` (20_memory.md R45). -/
def rowMajor (w r c : Nat) : Nat := r * w + c

/-- `clamp(i, 0, n − 1)` for `n ≥ 1` (00_scope.md R6, 42_gaussian_fir.md R113). -/
def clampIdx (i : Int) (n : Nat) : Nat :=
  if i < 0 then 0 else if (n : Int) - 1 < i then n - 1 else i.toNat

/-! ### Planes -/

/-- The plane of `h` rows and `w` columns with element `f r c` at `[r][c]`, as the row-major list of its
elements (20_memory.md R44, R47). -/
def grid {α : Type} (h w : Nat) (f : Nat → Nat → α) : List α :=
  (List.range (h * w)).map fun i => f (i / w) (i % w)

/-- `PLANE[r][c]`, and `free` of the index where the store holds no value there (10_state.md R21,
log 6). -/
def planeAt {α : Type} (p : List α) (free : Nat → α) (w r c : Nat) : α :=
  (p[rowMajor w r c]?).getD (free (rowMajor w r c))

/-! ### Buffers -/

/-- The byte a memory holds at an index, if it holds one. -/
def Memory.read : Memory → Nat → Option Byte
  | [], _ => none
  | (x, y) :: m, a => if a = x then some y else Memory.read m a

/-- The memory with a byte written, in canonical form. -/
def Memory.write : Memory → Nat → Byte → Memory
  | [], a, b => [(a, b)]
  | (x, y) :: m, a, b =>
    if a < x then (a, b) :: (x, y) :: m
    else if a = x then (a, b) :: m
    else (x, y) :: Memory.write m a b

/-- The memory with a sequence of bytes written from an index on. -/
def Memory.writeFrom : Memory → Nat → List Byte → Memory
  | m, _, [] => m
  | m, a, b :: bs => Memory.writeFrom (Memory.write m a b) (a + 1) bs

/-- The byte of SRC at an index (40_host_commands.md R92): the last one written, or, if none was since
reset, one free value that stays until the host writes it or resets (20_memory.md R59, log 4). -/
def State.srcByte (s : State) (i : Nat) : Byte := (s.src.read i).getD (Config.freeSrc s.resets i)

/-- The values a SRC index held in the running call before the host overwrote it, newest first. -/
def olderBytes (raced : List (Nat × Option Byte)) (i : Nat) : List (Option Byte) :=
  (raced.filter fun e => e.1 = i).map (·.2)

/-- The luma byte EXTRACT reads at a SRC index: what SRC holds; but where the host overwrote the byte
in the running call, either the new byte or one it held before, by a free choice (20_memory.md R58,
row 4; log 7). A byte never written is a free value (R59, log 4). -/
def State.lumaByte (s : State) (i : Nat) : Byte :=
  match olderBytes s.raced i with
  | [] => s.srcByte i
  | old :: olds =>
    let candidates := s.src.read i :: old :: olds
    let pick := candidates.getD (Config.raceChoice s.draws i % candidates.length) (s.src.read i)
    pick.getD (Config.freeSrc s.resets i)

end Sys2Proof.Machine
end

