-- ==== Sys2Proof/Machine/Flags.lean ====
section
/-! DEFINITION. The flags, the words the registers read as, and the interrupt line. -/

namespace Sys2Proof.Machine

/-- STATUS.BUSY = 1 exactly when 1 ≤ PHASE ≤ 9 (10_state.md R14, R16). -/
def Phase.busy : Phase → Bool
  | .idle => false
  | .complete => false
  | .failed => false
  | _ => true

/-- STATUS.BUSY. -/
def State.busy (s : State) : Bool := Phase.busy s.phase

/-- STATUS.DONE = 1 exactly when PHASE = 10 (10_state.md R14). -/
def State.done (s : State) : Bool := s.phase = .complete

/-- STATUS.FAIL = 1 exactly when PHASE = 11 (10_state.md R14). -/
def State.fail (s : State) : Bool := s.phase = .failed

/-- The interrupt output, level-sensitive (10_state.md R24, 60_exceptions.md R170). -/
def State.irq (s : State) : Bool := s.ie && (s.done || s.fail)

/-- The STATUS word (30_encoding.md R63): {0 (20 bits), PHASE, 0 (3 bits), ILL, OVR, FAIL, DONE, BUSY}. -/
def State.statusWord (s : State) : Word :=
  (0 : BitVec 20) ++ phaseCode s.phase ++ (0 : BitVec 3) ++ BitVec.ofBool s.ill ++
    BitVec.ofBool s.ovr ++ BitVec.ofBool s.fail ++ BitVec.ofBool s.done ++ BitVec.ofBool s.busy

/-- The 2-bit error code (30_encoding.md R64). -/
def errCode : ErrCode → BitVec 2
  | .none => 0
  | .invalidDimensions => 1
  | .bufferTooSmall => 2
  | .allocationFailure => 3

/-- THRESH: {T_HIGH as u16, T_LOW as u16} (30_encoding.md R66). -/
def threshWord : Word := BitVec.ofNat 16 Config.tHigh ++ BitVec.ofNat 16 Config.tLow

/-- COEF: {GAUSS_SHIFT, K0, K1, K2}, each as u8 (30_encoding.md R66). -/
def coefWord : Word :=
  BitVec.ofNat 8 Config.gaussShift ++ BitVec.ofNat 8 (Config.tap 0) ++
    BitVec.ofNat 8 (Config.tap 1) ++ BitVec.ofNat 8 (Config.tap 2)

/-- The word each register reads as (40_host_commands.md R80). -/
def State.readReg (s : State) : Reg → Word
  | .cmd => 0
  | .status => s.statusWord
  | .err => (errCode s.err).setWidth 32
  | .ctrl => (BitVec.ofBool s.ie).setWidth 32
  | .width => s.width
  | .height => s.height
  | .srcLen => s.srcLen
  | .outLen => s.outLen
  | .cap => BitVec.ofNat 32 s.caps.maxPixels
  | .thresh => threshWord
  | .coef => coefWord

end Sys2Proof.Machine
end

