-- ==== Sys2Proof/Machine/Ops.lean ====
section
/-! DEFINITION. The named operations the meanings share: flags set, a call started, acknowledged, failed
or completed, an engine phase passed, a buffer byte written, a value returned to the host. -/

namespace Sys2Proof.Machine

/-- A step's outcome. -/
abbrev Result := Host.Outcome State Fault Refusal

/-! ### Sticky flags (10_state.md R15) -/

/-- STATUS.OVR <- 1 (40_host_commands.md R84, R90). -/
def State.setOvr (s : State) : State := { s with ovr := true }

/-- STATUS.ILL <- 1 (40_host_commands.md R89). -/
def State.setIll (s : State) : State := { s with ill := true }

/-! ### The life of a call -/

/-- An accepted PROCESS (40_host_commands.md R87). -/
def State.startCall (s : State) : State :=
  { s with err := .none, outLen := 0, phase := .validate }

/-- An accepted ACK (40_host_commands.md R88). -/
def State.acknowledge (s : State) : State :=
  { s with err := .none, outLen := 0, ovr := false, ill := false, phase := .idle }

/-- The failure entry `raise <Error>(code)` (60_exceptions.md R166): the block's one way of taking an
exception. Nothing is saved; ACK and PROCESS are the ways back (R168). The record of raced bytes is
the model's own and ends with the call (log 7). -/
def State.raise (s : State) (code : ErrCode) : State :=
  { s with err := code, outLen := 0, phase := .failed, raced := [] }

/-- The entry to COMPLETE (44_flatten.md R151). The plane stores hold no value outside a call
(10_state.md R21, log 6). -/
def State.completeEntry (s : State) : State :=
  { s with outLen := BitVec.ofNat 32 s.pixels, err := .none, phase := .complete,
           planes := Planes.empty }

/-- An engine phase that writes one or more whole plane stores: the stores written and PHASE moved on
(10_state.md R14), where the frame fits the stores (R20; log 17). -/
def State.passPhase (s : State) (stores : Planes) (next : Phase) : Result :=
  if s.pixels ≤ s.caps.maxPixels then
    .next { s with planes := stores, phase := next, draws := s.draws + 1 }
  else .fault .storeOverflow

/-! ### Commands (40_host_commands.md R85 to R90) -/

/-- NOP: nothing (R86). -/
def State.cmdNop (s : State) : State := s

/-- PROCESS: accepted when BUSY = 0 (R87), else dropped and flagged OVR (R90). -/
def State.cmdProcess (s : State) : State := if s.busy then s.setOvr else s.startCall

/-- ACK: accepted when BUSY = 0 (R88), else dropped and flagged OVR (R90). -/
def State.cmdAck (s : State) : State := if s.busy then s.setOvr else s.acknowledge

/-- CMDWRITE (R85): the decode of a word written to CMD. -/
def State.cmdWrite (s : State) (v : Word) : State :=
  if v.extractLsb' 4 28 ≠ 0 ∨ 3 ≤ (v.extractLsb' 0 4).toNat then s.setIll
  else if v.extractLsb' 0 4 = 0 then s.cmdNop
  else if v.extractLsb' 0 4 = 1 then s.cmdProcess
  else s.cmdAck

/-! ### Register writes (40_host_commands.md R81 to R84) -/

/-- OPWRITE (R84): an operand register takes the value when BUSY = 0; else the write is dropped and
flagged OVR. -/
def State.opWrite (s written : State) : State := if s.busy then s.setOvr else written

/-- A register write (R81). -/
def State.writeReg (s : State) (r : Reg) (v : Word) : State :=
  match r with
  | .cmd => s.cmdWrite v
  | .ctrl => { s with ie := v.getLsbD 0 }
  | .width => s.opWrite { s with width := v }
  | .height => s.opWrite { s with height := v }
  | .srcLen => s.opWrite { s with srcLen := v }
  | .status => s
  | .err => s
  | .outLen => s
  | .cap => s
  | .thresh => s
  | .coef => s

/-! ### Buffer accesses (40_host_commands.md R91 to R93) -/

/-- `SRC[i] <- b` (R91). While BUSY, a write to a luma byte breaks the host's duty
(70_reset_and_hazards.md R195) and leaves the call's result unspecified (20_memory.md R58): before
EXTRACT has read the luma the byte it held is remembered, so that EXTRACT may use either (log 7);
after it the plane stores lose their values (log 8). -/
def State.writeSrc (s : State) (i : Nat) (b : Byte) : State :=
  let t := { s with src := s.src.write i b }
  if s.busy && i < s.pixels then
    if s.phase = .validate ∨ s.phase = .extract then
      { t with raced := (i, s.src.read i) :: s.raced }
    else { t with planes := Planes.empty }
  else t

/-- A value returned to the host (log 9). -/
def State.reply (s : State) (r : Reply) : State := { s with replies := r :: s.replies }

/-- The byte a host read of DST finds (R93): what DST holds while DONE = 1 and below OUT_LEN, else a free
value, which may differ from read to read (20_memory.md R58, log 5). -/
def State.dstByte (s : State) (i : Nat) : Byte :=
  (if s.done && i < s.outLen.toNat then s.dst.read i else none).getD
    (Config.freeDst s.replies.length i)

/-! ### Reset -/

/-- The reset input asserted (70_reset_and_hazards.md R190, R191; 10_state.md R27): every piece of the
block's state at its reset value, SRC and DST unspecified again. The capacities, the host's accesses
still to come and the values it has read are not the block's state and stay (log 12). -/
def State.hardReset (s : State) : State :=
  { State.reset with
    caps := s.caps, inbox := s.inbox, replies := s.replies, resets := s.resets + 1,
    draws := s.draws + 1 }

end Sys2Proof.Machine
end

