-- ==== Sys2Proof/Machine/Canny.lean ====
section
/-! DEFINITION. The Canny edge detector: GRAD, NMS, CLASSIFY, HYST (43_canny.md). -/

namespace Sys2Proof.Machine

/-! ### Gradient (43_canny.md R126 to R129) -/

/-- P(r, c): a plane read with both indices clamped (43_canny.md R127). -/
def replicated (h w : Nat) (p : Nat → Nat → Byte) (r c : Int) : Int :=
  (p (clampIdx r h) (clampIdx c w)).toNat

/-- gx: the right column minus the left column, weights 1, 2, 1 (43_canny.md R126). -/
def sobelX (p : Int → Int → Int) (r c : Int) : Int :=
  (p (r - 1) (c + 1) + 2 * p r (c + 1) + p (r + 1) (c + 1)) -
    (p (r - 1) (c - 1) + 2 * p r (c - 1) + p (r + 1) (c - 1))

/-- gy: the row below minus the row above, weights 1, 2, 1 (43_canny.md R126). -/
def sobelY (p : Int → Int → Int) (r c : Int) : Int :=
  (p (r + 1) (c - 1) + 2 * p (r + 1) c + p (r + 1) (c + 1)) -
    (p (r - 1) (c - 1) + 2 * p (r - 1) c + p (r - 1) (c + 1))

/-- The gradient magnitude under a norm (43_canny.md R129). -/
def magnitude (norm : MagNorm) (gx gy : Int) : Nat :=
  match norm with
  | .l1 => gx.natAbs + gy.natAbs
  | .l2sq => gx.natAbs ^ 2 + gy.natAbs ^ 2

/-- What a threshold is compared with under a norm: T itself, or T² (43_canny.md R129). -/
def threshold (norm : MagNorm) (t : Nat) : Nat :=
  match norm with
  | .l1 => t
  | .l2sq => t ^ 2

/-! ### Non-maximum suppression (43_canny.md R131 to R135) -/

/-- DIR(gx, gy) (43_canny.md R131). -/
def direction (gx gy : Int) : Dir :=
  let ax : Int := gx.natAbs
  let ay : Int := gy.natAbs
  if ay * Config.tanOne < ax * Config.tan22 then .row
  else if ax * Config.tan22 + ax * (2 * Config.tanOne) < ay * Config.tanOne then .column
  else if (gx < 0) = (gy < 0) then .mainDiag
  else .antiDiag

/-- The first neighbour along a direction, the one with the smaller index (43_canny.md R132). -/
def neighbour1 (d : Dir) (r c : Int) : Int × Int :=
  match d with
  | .row => (r, c - 1)
  | .mainDiag => (r - 1, c - 1)
  | .column => (r - 1, c)
  | .antiDiag => (r - 1, c + 1)

/-- The second neighbour along a direction, the one with the larger index (43_canny.md R132). -/
def neighbour2 (d : Dir) (r c : Int) : Int × Int :=
  match d with
  | .row => (r, c + 1)
  | .mainDiag => (r + 1, c + 1)
  | .column => (r + 1, c)
  | .antiDiag => (r + 1, c - 1)

/-- A position lies in the plane. -/
def inPlane (h w : Nat) (p : Int × Int) : Bool :=
  0 ≤ p.1 && p.1 < h && 0 ≤ p.2 && p.2 < w

/-- M(r, c): the magnitude inside the plane, 0 outside (43_canny.md R132, R135). -/
def magOutsideZero (h w : Nat) (mag : Nat → Nat → Nat) (p : Int × Int) : Nat :=
  if inPlane h w p then mag p.1.toNat p.2.toNat else 0

/-- The keep condition m > m1 and m ≥ m2 (43_canny.md R133). -/
def isKept (h w : Nat) (mag : Nat → Nat → Nat) (d : Dir) (r c : Nat) : Bool :=
  magOutsideZero h w mag (neighbour1 d r c) < mag r c &&
    magOutsideZero h w mag (neighbour2 d r c) ≤ mag r c

/-! ### Thresholds (43_canny.md R136, R137) -/

/-- The class of a pixel (43_canny.md R137). -/
def classOf (norm : MagNorm) (kept : Bool) (m : Nat) : Cls :=
  if !kept then .none
  else if m < threshold norm Config.tLow then .none
  else if threshold norm Config.tHigh < m then .strong
  else .weak

/-! ### Hysteresis (43_canny.md R138, R139) -/

/-- The eight offsets of the 8-neighbours (00_scope.md R8). -/
def offsets8 : List (Int × Int) :=
  [(-1, -1), (-1, 0), (-1, 1), (0, -1), (0, 1), (1, -1), (1, 0), (1, 1)]

/-- Some 8-neighbour of [r][c] inside the plane is an edge (43_canny.md R138). -/
def hasEdgeNeighbour (h w : Nat) (edge : List Bool) (r c : Nat) : Bool :=
  offsets8.any fun d =>
    let p : Int × Int := ((r : Int) + d.1, (c : Int) + d.2)
    inPlane h w p && edge.getD (rowMajor w p.1.toNat p.2.toNat) false

/-- The strong pixels: where the hysteresis starts (43_canny.md R138). -/
def strongPixels (h w : Nat) (cls : Nat → Nat → Cls) : List Bool :=
  grid h w fun r c => cls r c = .strong

/-- One sweep: every weak pixel with an edge neighbour becomes an edge (43_canny.md R138). All pixels are
swept at once; the result of the repeated sweep is the same (R139). -/
def hystSweep (h w : Nat) (cls : Nat → Nat → Cls) (edge : List Bool) : List Bool :=
  grid h w fun r c =>
    edge.getD (rowMajor w r c) false || (cls r c = .weak && hasEdgeNeighbour h w edge r c)

/-- The sweep repeated until nothing changes, at most `n` times (43_canny.md R138, R139). -/
def hystClose (h w : Nat) (cls : Nat → Nat → Cls) : Nat → List Bool → List Bool
  | 0, edge => edge
  | n + 1, edge =>
    let edge' := hystSweep h w cls edge
    if edge' = edge then edge else hystClose h w cls n edge'

/-! ### The planes the four operations write -/

/-- GX of a BLUR plane (43_canny.md R126), s11. -/
def gxPlane (h w : Nat) (blur : Nat → Nat → Byte) : List (BitVec 11) :=
  grid h w fun r c => BitVec.ofInt 11 (sobelX (replicated h w blur) r c)

/-- GY of a BLUR plane (43_canny.md R126), s11. -/
def gyPlane (h w : Nat) (blur : Nat → Nat → Byte) : List (BitVec 11) :=
  grid h w fun r c => BitVec.ofInt 11 (sobelY (replicated h w blur) r c)

/-- MAG of a BLUR plane (43_canny.md R126, R129). -/
def magPlane (h w : Nat) (blur : Nat → Nat → Byte) : List (BitVec Config.magWidth) :=
  grid h w fun r c =>
    BitVec.ofNat Config.magWidth (magnitude Config.magNorm
      (sobelX (replicated h w blur) r c) (sobelY (replicated h w blur) r c))

/-- NMSK of GX, GY and MAG planes (43_canny.md R135). -/
def nmskPlane (h w : Nat) (gx gy : Nat → Nat → Int) (mag : Nat → Nat → Nat) : List Bool :=
  grid h w fun r c => isKept h w mag (direction (gx r c) (gy r c)) r c

/-- CLS of MAG and NMSK planes (43_canny.md R137). -/
def clsPlane (h w : Nat) (mag : Nat → Nat → Nat) (nmsk : Nat → Nat → Bool) : List Cls :=
  grid h w fun r c => classOf Config.magNorm (nmsk r c) (mag r c)

/-- EDGE of a CLS plane (43_canny.md R138): at most W·H additions occur (R139). -/
def edgePlane (h w : Nat) (cls : Nat → Nat → Cls) : List Bool :=
  hystClose h w cls (h * w) (strongPixels h w cls)

/-! ### The elements the four operations read -/

/-- BLUR[r][c]. -/
def State.blurAt (s : State) (r c : Nat) : Byte :=
  planeAt s.planes.blur (Config.freeBlur s.draws) s.w r c

/-- GX[r][c] as an integer. -/
def State.gxAt (s : State) (r c : Nat) : Int :=
  (planeAt s.planes.gx (Config.freeGx s.draws) s.w r c).toInt

/-- GY[r][c] as an integer. -/
def State.gyAt (s : State) (r c : Nat) : Int :=
  (planeAt s.planes.gy (Config.freeGy s.draws) s.w r c).toInt

/-- MAG[r][c] as a number. -/
def State.magAt (s : State) (r c : Nat) : Nat :=
  (planeAt s.planes.mag (Config.freeMag s.draws) s.w r c).toNat

/-- NMSK[r][c]. -/
def State.nmskAt (s : State) (r c : Nat) : Bool :=
  planeAt s.planes.nmsk (Config.freeNmsk s.draws) s.w r c

/-- CLS[r][c]. -/
def State.clsAt (s : State) (r c : Nat) : Cls :=
  planeAt s.planes.cls (Config.freeCls s.draws) s.w r c

/-! ### The operations -/

/-- GRAD (43_canny.md R126). -/
def execGrad (s : State) : Result :=
  s.passPhase
    { s.planes with
      gx := gxPlane s.h s.w s.blurAt
      gy := gyPlane s.h s.w s.blurAt
      mag := magPlane s.h s.w s.blurAt } .nms

/-- NMS (43_canny.md R135). -/
def execNms (s : State) : Result :=
  s.passPhase { s.planes with nmsk := nmskPlane s.h s.w s.gxAt s.gyAt s.magAt } .classify

/-- CLASSIFY (43_canny.md R137). -/
def execClassify (s : State) : Result :=
  s.passPhase { s.planes with cls := clsPlane s.h s.w s.magAt s.nmskAt } .hyst

/-- HYST (43_canny.md R138). -/
def execHyst (s : State) : Result :=
  s.passPhase { s.planes with edge := edgePlane s.h s.w s.clsAt } .flatten

end Sys2Proof.Machine
end

