-- ==== Sys2Proof/Machine/Command.lean ====
section
/-! DEFINITION. The host's commands: NOP, PROCESS, ACK. -/

namespace Sys2Proof.Machine

/-- NOP (40_host_commands.md R86). -/
def execNop (s : State) : Result := .next s.cmdNop

/-- PROCESS (40_host_commands.md R87, R90). -/
def execProcess (s : State) : Result := .next s.cmdProcess

/-- ACK (40_host_commands.md R88, R90). -/
def execAck (s : State) : Result := .next s.cmdAck

end Sys2Proof.Machine
end

