-- ==== Sys2Proof/Machine/Front.lean ====
section
/-! DEFINITION. The first two engine operations: VALIDATE and EXTRACT. -/

namespace Sys2Proof.Machine

/-- The error VALIDATE raises, if any, in the order of 41_validate_extract.md R100 (R101 to R103), all
in unbounded integers. -/
def validateError (maxPixels : Nat) (w h l : Int) : Option ErrCode :=
  if w ≤ 0 ∨ h ≤ 0 then some .invalidDimensions
  else if 2 * l < 3 * w * h then some .bufferTooSmall
  else if (maxPixels : Int) < w * h then some .allocationFailure
  else none

/-- VALIDATE (41_validate_extract.md R100). -/
def execValidate (s : State) : Result :=
  match validateError s.caps.maxPixels s.wInt s.hInt s.len with
  | some e => .next (s.raise e)
  | none => .next { s with phase := .extract }

/-- EXTRACT (41_validate_extract.md R104): LUMA[r][c] <- SRC[r·W + c]. -/
def execExtract (s : State) : Result :=
  if s.pixels ≤ s.caps.srcCap then
    { s with raced := [] }.passPhase
      { s.planes with luma := grid s.h s.w fun r c => s.lumaByte (rowMajor s.w r c) } .gaussH
  else .fault .srcIndexAbsent

end Sys2Proof.Machine
end

