-- ==== Sys2Proof/Machine/Gauss.lean ====
section
/-! DEFINITION. The Gaussian FIR filter: FIR1D, GAUSS_H, GAUSS_V (42_gaussian_fir.md). -/

namespace Sys2Proof.Machine

/-- The sum of the five taps at position `i` of a sequence of `n` samples, borders replicated
(42_gaussian_fir.md R112, R113). -/
def firSum (v : Nat → Byte) (n i : Nat) : Nat :=
  ((List.range 5).map fun j =>
    Config.tap j * (v (clampIdx ((i : Int) + (j : Int) - 2) n)).toNat).sum

/-- One output of FIR1D: round half up (42_gaussian_fir.md R114). -/
def firAt (v : Nat → Byte) (n i : Nat) : Byte :=
  BitVec.ofNat 8 ((firSum v n i + 2 ^ (Config.gaussShift - 1)) / 2 ^ Config.gaussShift)

/-- FIR1D on a sequence (42_gaussian_fir.md R112). -/
def fir1d (v : List Byte) : List Byte :=
  (List.range v.length).map (firAt (fun i => v.getD i 0) v.length)

/-- LUMA[r][c]. -/
def State.lumaAt (s : State) (r c : Nat) : Byte :=
  planeAt s.planes.luma (Config.freeLuma s.draws) s.w r c

/-- HBLUR[r][c]. -/
def State.hblurAt (s : State) (r c : Nat) : Byte :=
  planeAt s.planes.hblur (Config.freeHblur s.draws) s.w r c

/-- The horizontal pass: each row through FIR1D (42_gaussian_fir.md R115). -/
def hblurPlane (h w : Nat) (luma : Nat → Nat → Byte) : List Byte :=
  grid h w fun r c => firAt (luma r) w c

/-- The vertical pass: each column through FIR1D (42_gaussian_fir.md R116). -/
def blurPlane (h w : Nat) (hblur : Nat → Nat → Byte) : List Byte :=
  grid h w fun r c => firAt (fun j => hblur j c) h r

/-- GAUSS_H (42_gaussian_fir.md R115). -/
def execGaussH (s : State) : Result :=
  s.passPhase { s.planes with hblur := hblurPlane s.h s.w s.lumaAt } .gaussV

/-- GAUSS_V (42_gaussian_fir.md R116). -/
def execGaussV (s : State) : Result :=
  s.passPhase { s.planes with blur := blurPlane s.h s.w s.hblurAt } .grad

end Sys2Proof.Machine
end

