-- ==== Sys2Proof/Machine/Flatten.lean ====
section
/-! DEFINITION. FLATTEN, and the whole call as one function (44_flatten.md). -/

namespace Sys2Proof.Machine

/-- EDGE[r][c]. -/
def State.edgeAt (s : State) (r c : Nat) : Bool :=
  planeAt s.planes.edge (Config.freeEdge s.draws) s.w r c

/-- The EdgeMap byte of a pixel (44_flatten.md R150). -/
def edgeByte (e : Bool) : Byte := if e then Config.edgeMark else Config.nonEdge

/-- The EdgeMap of an EDGE plane, row-major (44_flatten.md R150, 20_memory.md R47). -/
def edgeMap (h w : Nat) (edge : Nat → Nat → Bool) : List Byte :=
  grid h w fun r c => edgeByte (edge r c)

/-- FLATTEN (44_flatten.md R150): DST[r·W + c] <- 255 or 0, then the entry to COMPLETE (R151). -/
def execFlatten (s : State) : Result :=
  if s.pixels ≤ s.caps.maxPixels then
    .next { s with dst := s.dst.writeFrom 0 (edgeMap s.h s.w s.edgeAt),
                   draws := s.draws + 1 }.completeEntry
  else .fault .dstIndexAbsent

/-- The element [r][c] of a plane that a call has just written whole; the default is never read. -/
def written {α : Type} [Inhabited α] (w : Nat) (p : List α) (r c : Nat) : α :=
  p.getD (rowMajor w r c) default

/-- The EdgeMap of a luma plane: the phase rules composed in order (44_flatten.md R152). -/
def edgeMapOf (h w : Nat) (luma : Nat → Nat → Byte) : List Byte :=
  let hblur := hblurPlane h w luma
  let blur := blurPlane h w (written w hblur)
  let gx := gxPlane h w (written w blur)
  let gy := gyPlane h w (written w blur)
  let mag := magPlane h w (written w blur)
  let nmsk := nmskPlane h w (fun r c => (written w gx r c).toInt)
    (fun r c => (written w gy r c).toInt) (fun r c => (written w mag r c).toNat)
  let cls := clsPlane h w (fun r c => (written w mag r c).toNat) (written w nmsk)
  let edge := edgePlane h w (written w cls)
  edgeMap h w (written w edge)

/-- `processFrame` (44_flatten.md R152): the effect of one call as a function of the SRC contents, the
operands and MAX_PIXELS. -/
def processFrame (maxPixels : Nat) (buf : Nat → Byte) (l : Nat) (w h : Int) :
    Except ErrCode (List Byte) :=
  match validateError maxPixels w h l with
  | some e => .error e
  | none => .ok (edgeMapOf h.toNat w.toNat fun r c => buf (rowMajor w.toNat r c))

end Sys2Proof.Machine
end

