-- ==== Sys2Proof/Machine/HostAccess.lean ====
section
/-! DEFINITION. The host's register and buffer accesses: RD, WR, SRCWR, SRCRD, DSTRD. -/

namespace Sys2Proof.Machine

/-- RD (40_host_commands.md R80): returns the register's word; changes nothing else. -/
def execRd (r : Reg) (s : State) : Result := .next (s.reply (.word (s.readReg r)))

/-- WR (40_host_commands.md R81). -/
def execWr (r : Reg) (v : Word) (s : State) : Result := .next (s.writeReg r v)

/-- SRCWR (40_host_commands.md R91). -/
def execSrcwr (i : BitVec 32) (b : Byte) (s : State) : Result :=
  if i.toNat < s.caps.srcCap then .next (s.writeSrc i.toNat b) else .refused .srcOutOfRange

/-- SRCRD (40_host_commands.md R92). -/
def execSrcrd (i : BitVec 32) (s : State) : Result :=
  if i.toNat < s.caps.srcCap then
    .next (s.reply (.byte (s.srcByte i.toNat)))
  else .refused .srcOutOfRange

/-- DSTRD (40_host_commands.md R93): defined while DONE = 1 and below OUT_LEN, else any u8
(20_memory.md R58, log 5). -/
def execDstrd (i : BitVec 32) (s : State) : Result :=
  if i.toNat < s.caps.maxPixels then
    .next (s.reply (.byte (s.dstByte i.toNat)))
  else .refused .dstOutOfRange

end Sys2Proof.Machine
end

