-- ==== Sys2Proof/Machine/Dispatch.lean ====
section
/-! DEFINITION. The meaning of every operation, one arm per constructor of Instr. -/

namespace Sys2Proof.Machine

def exec (i : Instr) (s : State) : Host.Outcome State Fault Refusal :=
  match i with
  | .rd r => Sys2Proof.Machine.execRd r s
  | .wr r v => Sys2Proof.Machine.execWr r v s
  | .srcwr a b => Sys2Proof.Machine.execSrcwr a b s
  | .srcrd a => Sys2Proof.Machine.execSrcrd a s
  | .dstrd a => Sys2Proof.Machine.execDstrd a s
  | .nop => Sys2Proof.Machine.execNop s
  | .process => Sys2Proof.Machine.execProcess s
  | .ack => Sys2Proof.Machine.execAck s
  | .validate => Sys2Proof.Machine.execValidate s
  | .extract => Sys2Proof.Machine.execExtract s
  | .gaussH => Sys2Proof.Machine.execGaussH s
  | .gaussV => Sys2Proof.Machine.execGaussV s
  | .grad => Sys2Proof.Machine.execGrad s
  | .nms => Sys2Proof.Machine.execNms s
  | .classify => Sys2Proof.Machine.execClassify s
  | .hyst => Sys2Proof.Machine.execHyst s
  | .flatten => Sys2Proof.Machine.execFlatten s

end Sys2Proof.Machine
end

