-- ==== Sys2Proof/Machine/Schedule.lean ====
section
/-! DEFINITION. Who moves next, and what a move does; what Step.lean calls. -/

namespace Sys2Proof.Machine

/-- The host event that moves next, if the host does, and the events after it: an event is due when no
more engine steps may pass before it, or when the engine has no step (log 2, log 11). -/
def State.hostTurn (s : State) : Option (Arrival × List Arrival) :=
  match s.inbox with
  | [] => none
  | a :: rest => if a.gap = 0 || !s.busy then some (a, rest) else none

/-- The state in which one more engine step has passed before the next host event. -/
def State.passGap (s : State) : State :=
  match s.inbox with
  | [] => s
  | a :: rest => { s with inbox := { a with gap := a.gap - 1 } :: rest }

/-- A host event: the decoded access executed, or reset. A refused access has no step
(60_exceptions.md R173). -/
def hostStep (e : HostEvent) (s : State) : Result :=
  match e with
  | .reset => .next s.hardReset
  | .access t =>
    match decode (.port t) with
    | .ok i => exec i s
    | .error e => .refused (.hostAccess e)

/-- The engine's step: the operation PHASE names (10_state.md R14); none in a resting phase. -/
def engineStep (s : State) : Result :=
  match decode (.phase (phaseCode s.phase)) with
  | .ok i => exec i s
  | .error _ => .next s

/-- The phase of a code (30_encoding.md R67); none for the reserved codes 12 to 15. -/
def phaseOfCode (p : BitVec 4) : Option Phase :=
  match p.toNat with
  | 0 => some .idle
  | 1 => some .validate
  | 2 => some .extract
  | 3 => some .gaussH
  | 4 => some .gaussV
  | 5 => some .grad
  | 6 => some .nms
  | 7 => some .classify
  | 8 => some .hyst
  | 9 => some .flatten
  | 10 => some .complete
  | 11 => some .failed
  | _ => none

/-- The state with an encoding placed so that the very next step takes it (log 16). -/
def State.place (s : State) (e : Encoding) : State :=
  match e with
  | .port t => { s with inbox := [{ gap := 0, event := .access t }] }
  | .phase p => { s with phase := (phaseOfCode p).getD s.phase, inbox := [] }

end Sys2Proof.Machine
end

