-- ==== Sys2Proof/Machine/Step.lean ====
section
/-! DEFINITION. One step of the block: the host's next access or reset, or the engine's operation. -/

namespace Sys2Proof.Machine

/-- One step (10_state.md R14, 20_memory.md R53; logs 2 and 10): the host's turn if an event is due or
the engine has no step, else the engine's turn. At rest with nothing to come, nothing happens. -/
def step (s : State) : Host.Outcome State Fault Refusal :=
  match s.hostTurn with
  | some (a, rest) => hostStep a.event { s with inbox := rest }
  | none => if s.busy then engineStep s.passGap else .next s

/-- The state with an opcode-table instruction placed where the next step takes its operation from: an
engine operation in PHASE with no host event to come, a host access at the head of the inbox. -/
def State.withFetchWord (s : State) (nbits w : Nat) : State :=
  s.place (tableEncoding nbits w)

end Sys2Proof.Machine
end

