-- ==== Sys2Proof/Safety.lean ====
section
/-! DEFINITION. What claims are stated in: what two states share, the invariant of every run, and the
spec's own description of the hysteresis set. -/

namespace Sys2Proof.Machine

/-! ### What two states share -/

/-- WIDTH, HEIGHT and SRC_LEN unchanged. -/
def SameOperands (s t : State) : Prop :=
  t.width = s.width ∧ t.height = s.height ∧ t.srcLen = s.srcLen

/-- ERR and OUT_LEN unchanged. -/
def SameResults (s t : State) : Prop := t.err = s.err ∧ t.outLen = s.outLen

/-- The sticky flags and CTRL unchanged. -/
def SameFlags (s t : State) : Prop := t.ovr = s.ovr ∧ t.ill = s.ill ∧ t.ie = s.ie

/-- Every byte of SRC reads as before: the written ones, and, with no reset between, the others. -/
def SameSrc (s t : State) : Prop := (∀ a, t.src.read a = s.src.read a) ∧ t.resets = s.resets

/-- Every byte of DST reads as before. -/
def SameDst (s t : State) : Prop := ∀ a, t.dst.read a = s.dst.read a

/-- The capacities and the host events to come unchanged. -/
def SameHost (s t : State) : Prop := t.caps = s.caps ∧ t.inbox = s.inbox

/-! ### The invariant -/

/-- The phases after a passing VALIDATE. -/
def Phase.validated : Phase → Bool
  | .extract => true
  | .gaussH => true
  | .gaussV => true
  | .grad => true
  | .nms => true
  | .classify => true
  | .hyst => true
  | .flatten => true
  | _ => false

/-- A plane store holds nothing or exactly W·H elements (10_state.md R20, R21). -/
def wholeOrEmpty {α : Type} (p : List α) (n : Nat) : Prop := p = [] ∨ p.length = n

/-- What holds in every state of every run. -/
structure State.Inv (s : State) : Prop where
  /-- The open parameters are in range (92_eei_decisions.md, open parameters). -/
  caps_wf : s.caps.Wf
  /-- SRC is in canonical form. -/
  src_wf : s.src.wf = true
  /-- DST is in canonical form. -/
  dst_wf : s.dst.wf = true
  /-- SRC has indices below SRC_CAP only (10_state.md R22). -/
  src_below : ∀ e ∈ s.src, e.1 < s.caps.srcCap
  /-- DST has indices below MAX_PIXELS only (10_state.md R23). -/
  dst_below : ∀ e ∈ s.dst, e.1 < s.caps.maxPixels
  /-- ERR ≠ 0 exactly when FAIL = 1 (10_state.md R13). -/
  err_iff_fail : s.err ≠ .none ↔ s.phase = .failed
  /-- OUT_LEN ≠ 0 exactly when DONE = 1 (10_state.md R12). -/
  outLen_iff_done : s.outLen ≠ 0 ↔ s.phase = .complete
  /-- OUT_LEN ≤ MAX_PIXELS (10_state.md R12). -/
  outLen_le : s.outLen.toNat ≤ s.caps.maxPixels
  /-- While DONE = 1 every DST byte below OUT_LEN is 0 or 255 (20_memory.md R47). -/
  edgeMap_binary : s.phase = .complete → ∀ i < s.outLen.toNat,
    s.dst.read i = some 0 ∨ s.dst.read i = some 255
  /-- What VALIDATE has established (41_validate_extract.md R100). -/
  frame_ok : Phase.validated s.phase = true →
    1 ≤ s.wInt ∧ 1 ≤ s.hInt ∧ 3 * s.wInt * s.hInt ≤ 2 * s.len ∧ s.pixels ≤ s.caps.maxPixels
  /-- Outside a call, and until a call has passed VALIDATE, the plane stores hold nothing
  (10_state.md R21). -/
  stores_rest : s.busy = false ∨ s.phase = .validate → s.planes = Planes.empty
  /-- Raced bytes are remembered only until EXTRACT (log 7). -/
  raced_early : s.phase ≠ .validate → s.phase ≠ .extract → s.raced = []
  /-- The plane stores are whole or empty. -/
  luma_whole : wholeOrEmpty s.planes.luma s.pixels
  hblur_whole : wholeOrEmpty s.planes.hblur s.pixels
  blur_whole : wholeOrEmpty s.planes.blur s.pixels
  gx_whole : wholeOrEmpty s.planes.gx s.pixels
  gy_whole : wholeOrEmpty s.planes.gy s.pixels
  mag_whole : wholeOrEmpty s.planes.mag s.pixels
  nmsk_whole : wholeOrEmpty s.planes.nmsk s.pixels
  cls_whole : wholeOrEmpty s.planes.cls s.pixels
  edge_whole : wholeOrEmpty s.planes.edge s.pixels
  /-- The ranges of GX, GY and MAG (10_state.md R20). -/
  gx_range : ∀ x ∈ s.planes.gx, -1020 ≤ x.toInt ∧ x.toInt ≤ 1020
  gy_range : ∀ x ∈ s.planes.gy, -1020 ≤ x.toInt ∧ x.toInt ≤ 1020
  mag_range : ∀ x ∈ s.planes.mag, x.toNat ≤ 2040

/-- The phases a phase may pass to (10_state.md R14), host and engine together; reset apart. -/
def phaseSuccessors : Phase → List Phase
  | .idle => [.validate]
  | .validate => [.extract, .failed]
  | .extract => [.gaussH]
  | .gaussH => [.gaussV]
  | .gaussV => [.grad]
  | .grad => [.nms]
  | .nms => [.classify]
  | .classify => [.hyst]
  | .hyst => [.flatten]
  | .flatten => [.complete]
  | .complete => [.validate, .idle]
  | .failed => [.validate, .idle]

/-! ### Hysteresis as the spec defines it -/

/-- Two positions are 8-neighbours: both coordinates differ by at most 1, not both by 0
(00_scope.md R8). -/
def Adjacent8 (r c r' c' : Nat) : Prop :=
  (r ≠ r' ∨ c ≠ c') ∧ r ≤ r' + 1 ∧ r' ≤ r + 1 ∧ c ≤ c' + 1 ∧ c' ≤ c + 1

/-- The smallest set E of 43_canny.md R138: the strong positions, and every weak position with an
8-neighbour in E. -/
inductive EdgeSet (h w : Nat) (cls : Nat → Nat → Cls) : Nat → Nat → Prop where
  | strong {r c : Nat} (hr : r < h) (hc : c < w) (hs : cls r c = .strong) : EdgeSet h w cls r c
  | weak {r c r' c' : Nat} (hr : r < h) (hc : c < w) (hk : cls r c = .weak)
      (hn : EdgeSet h w cls r' c') (ha : Adjacent8 r c r' c') : EdgeSet h w cls r c

end Sys2Proof.Machine
end

