-- ==== Sys2Proof/Certificates/Slice0/Obligations.lean ====
section
/-! DEFINITION. The statements for the provers: what the rules of spec/ say the block does. Each
docstring names the rules; a statement about a whole call is for every call, not for a program. -/

open Sys2Proof Sys2Proof.Machine

/-! ### Encodings -/

/-- A few accesses and PHASE codes written out from the opcode table and 30_encoding.md R61, R62, R67. -/
def Obligations.TableWordsDecodeAsWritten : Prop :=
  decode (.port ⟨.regRead, 4, [0x04]⟩) = .ok (.rd .status) ∧
  decode (.port ⟨.regRead, 4, [0x28]⟩) = .ok (.rd .coef) ∧
  decode (.port ⟨.regWrite, 4, [0xFF, 0xFF, 0xFF, 0xFF, 0x14]⟩) = .ok (.wr .height 0xFFFFFFFF) ∧
  decode (.port ⟨.regWrite, 4, [0x78, 0x56, 0x34, 0x12, 0x18]⟩) = .ok (.wr .srcLen 0x12345678) ∧
  decode (.port ⟨.regWrite, 4, [0x01, 0x00, 0x00, 0x00, 0x00]⟩) = .ok .process ∧
  decode (.port ⟨.regWrite, 4, [0x11, 0x00, 0x00, 0x00, 0x00]⟩) = .ok (.wr .cmd 0x11) ∧
  decode (.port ⟨.srcWrite, 1, [0xFF, 0x02, 0x01, 0x00, 0x00]⟩) = .ok (.srcwr 0x102 0xFF) ∧
  decode (.port ⟨.dstRead, 1, [0x05, 0x00, 0x00, 0x00]⟩) = .ok (.dstrd 5) ∧
  decode (.phase 0b0011) = .ok .gaussH ∧
  decode (.phase 0b1001) = .ok .flatten ∧
  decode (.phase 0b1010) = .error .restingPhase

/-- Decode of encode is the instruction, for every well-formed instruction of every family and every
value of its operands (30_encoding.md R60 to R62, R67). -/
def Obligations.DecodeOfEncodeIsTheInstruction : Prop :=
  ∀ (c : Caps) (i : Instr), i.wellFormed c = true → decode (encode i) = .ok i

/-- Every accepted access or code is the encoding of the operation it decodes to: no bit of it is
dropped, and it has one meaning (30_encoding.md R69, R70). -/
def Obligations.EveryAcceptedEncodingIsExact : Prop :=
  ∀ (e : Encoding) (i : Instr), decode e = .ok i → encode i = e

/-- R173: a refused access has no step. The four ways a REG access is illegal, a host write to DST, and
indices outside SRC and DST. -/
def Obligations.RefusedAccessesHaveNoStep : Prop :=
  ∀ (s : State) (t : Txn) (rest : List Arrival),
    s.inbox = ⟨0, .access t⟩ :: rest →
    ((t.select = .regRead ∨ t.select = .regWrite) ∧ t.size ≠ 4) ∨
    (∃ o : Byte, (t.select = .regRead ∧ t.bytes = [o] ∨
        ∃ d0 d1 d2 d3, t.select = .regWrite ∧ t.bytes = [d0, d1, d2, d3, o]) ∧
      (o.toNat % 4 ≠ 0 ∨ 0x2C ≤ o.toNat)) ∨
    t.select = .dstWrite ∨
    (∃ (i : BitVec 32) (b : Byte), s.caps.srcCap ≤ i.toNat ∧
      (decode (.port t) = .ok (.srcwr i b) ∨ decode (.port t) = .ok (.srcrd i))) ∨
    (∃ i : BitVec 32, s.caps.maxPixels ≤ i.toNat ∧ decode (.port t) = .ok (.dstrd i)) →
    ∃ r, step s = .refused r

/-! ### The step -/

/-- When the next host event is due and its access decodes to `i`, the step is exec of `i` at the state
with that event taken out of the inbox. -/
def Obligations.StepRunsTheDecodedAccess : Prop :=
  ∀ (s : State) (n : Nat) (t : Txn) (rest : List Arrival) (i : Instr),
    s.inbox = ⟨n, .access t⟩ :: rest → n = 0 ∨ s.busy = false → decode (.port t) = .ok i →
    step s = exec i { s with inbox := rest }

/-- When no host event is due and PHASE names an operation `i` (10_state.md R14), the step is exec of `i`
at the state in which one more engine step has passed before the next event. -/
def Obligations.StepRunsThePhaseOperation : Prop :=
  ∀ (s : State) (i : Instr),
    decode (.phase (phaseCode s.phase)) = .ok i →
    (s.inbox = [] → step s = exec i s) ∧
    ∀ (n : Nat) (e : HostEvent) (rest : List Arrival), s.inbox = ⟨n + 1, e⟩ :: rest →
      step s = exec i { s with inbox := ⟨n, e⟩ :: rest }

/-- In a resting phase with nothing to come the block stays as it is (10_state.md R14: "the engine has no
step"; the idle step is the model's, log 10). -/
def Obligations.RestingBlockStaysAsItIs : Prop :=
  ∀ s : State, s.phase = .idle ∨ s.phase = .complete ∨ s.phase = .failed → s.inbox = [] →
    step s = .next s

/-- Each phase passes only to the phases 10_state.md R14 names, whatever the host does, and stays only
at rest or where the step is a host event; reset goes to IDLE (70_reset_and_hazards.md R190). -/
def Obligations.PhaseFollowsItsTable : Prop :=
  ∀ s t : State, step s = .next t →
    (t.phase = s.phase ∧ (s.busy = false ∨ ∃ e rest, s.inbox = ⟨0, e⟩ :: rest)) ∨
    t.phase ∈ phaseSuccessors s.phase ∨
    (t.phase = .idle ∧ ∃ n rest, s.inbox = ⟨n, .reset⟩ :: rest)

/-! ### Registers, flags, the interrupt line -/

/-- R63: the STATUS word, field by field. -/
def Obligations.StatusWordHasItsFields : Prop :=
  ∀ s : State,
    s.statusWord.getLsbD 0 = s.busy ∧ s.statusWord.getLsbD 1 = s.done ∧
    s.statusWord.getLsbD 2 = s.fail ∧ s.statusWord.getLsbD 3 = s.ovr ∧
    s.statusWord.getLsbD 4 = s.ill ∧ s.statusWord.extractLsb' 5 3 = 0 ∧
    s.statusWord.extractLsb' 8 4 = phaseCode s.phase ∧ s.statusWord.extractLsb' 12 20 = 0

/-- R16: exactly one of the four cases holds, as seen in PHASE's code and the three flags. -/
def Obligations.BusyDoneFailFollowPhase : Prop :=
  ∀ s : State,
    (phaseCode s.phase = 0 ∧ s.busy = false ∧ s.done = false ∧ s.fail = false) ∨
    (1 ≤ (phaseCode s.phase).toNat ∧ (phaseCode s.phase).toNat ≤ 9 ∧ s.busy = true ∧
      s.done = false ∧ s.fail = false) ∨
    (phaseCode s.phase = 10 ∧ s.done = true ∧ s.busy = false ∧ s.fail = false) ∨
    (phaseCode s.phase = 11 ∧ s.fail = true ∧ s.busy = false ∧ s.done = false)

/-- R80: what RD returns for each of the eleven registers, and that it changes nothing else; an access
of another size or offset is refused. The words are numbers: STATUS as the weights of its bits, CAP as
MAX_PIXELS. -/
def Obligations.RegisterReadsReturnTheirWords : Prop :=
  (∀ t : Txn, t.select = .regRead →
    (t.size ≠ 4 ∨ ∃ o : Byte, t.bytes = [o] ∧ (o.toNat % 4 ≠ 0 ∨ 0x28 < o.toNat)) →
    ∃ e, decode (.port t) = .error e) ∧
  ∀ s : State, s.caps.Wf →
    ∃ st er ct ca : Word,
      st.toNat = s.busy.toNat + 2 * s.done.toNat + 4 * s.fail.toNat + 8 * s.ovr.toNat +
        16 * s.ill.toNat + 256 * (phaseCode s.phase).toNat ∧
      er.toNat = (errCode s.err).toNat ∧ ct.toNat = s.ie.toNat ∧ ca.toNat = s.caps.maxPixels ∧
      ∀ p ∈ [(Reg.cmd, (0x00000000 : Word)), (.status, st), (.err, er), (.ctrl, ct),
          (.width, s.width), (.height, s.height), (.srcLen, s.srcLen), (.outLen, s.outLen),
          (.cap, ca), (.thresh, 0x00960032), (.coef, 0x081F3C4A)],
        exec (.rd p.1) s = .next { s with replies := .word p.2 :: s.replies }

/-- R82: a write to a read-only register changes nothing. -/
def Obligations.ReadOnlyWritesChangeNothing : Prop :=
  ∀ (s : State) (v : Word), ∀ r ∈ [Reg.status, .err, .outLen, .cap, .thresh, .coef],
    exec (.wr r v) s = .next s

/-- R83: a write to CTRL sets IE to bit 0 and does nothing else, in any phase. -/
def Obligations.CtrlWriteSetsOnlyIe : Prop :=
  ∀ (s : State) (v : Word),
    exec (.wr .ctrl v) s = .next { s with ie := decide (v.toNat % 2 = 1) }

/-- R84: an operand write while BUSY = 0 stores the value; while BUSY = 1 it is dropped and sets OVR. -/
def Obligations.OperandWriteStoresOrFlags : Prop :=
  ∀ (s : State) (v : Word),
    ((s.phase = .idle ∨ s.phase = .complete ∨ s.phase = .failed) →
      exec (.wr .width v) s = .next { s with width := v } ∧
      exec (.wr .height v) s = .next { s with height := v } ∧
      exec (.wr .srcLen v) s = .next { s with srcLen := v }) ∧
    (s.busy = true → ∀ r ∈ [Reg.width, .height, .srcLen],
      exec (.wr r v) s = .next { s with ovr := true })

/-- R85: the decode of a CMD write, in its order, with the effects of R86 to R90. -/
def Obligations.CmdWriteDecodesInOrder : Prop :=
  ∀ (s : State) (v : Word),
    (3 ≤ v.toNat → exec (.wr .cmd v) s = .next { s with ill := true }) ∧
    (v.toNat = 0 → exec (.wr .cmd v) s = .next s) ∧
    (v.toNat = 1 ∨ v.toNat = 2 → s.busy = true →
      exec (.wr .cmd v) s = .next { s with ovr := true }) ∧
    (v.toNat = 1 → s.busy = false →
      exec (.wr .cmd v) s = .next { s with err := .none, outLen := 0, phase := .validate }) ∧
    (v.toNat = 2 → s.busy = false →
      exec (.wr .cmd v) s = .next { s with err := .none, outLen := 0, ovr := false, ill := false,
                                           phase := .idle })

/-- NOP, PROCESS and ACK are short for WR CMD, 0, 1 and 2 (30_encoding.md R72, 40_host_commands.md R85;
that both spellings have one meaning is log 14); NOP does nothing, in any phase (R86). -/
def Obligations.CommandsAreCmdWrites : Prop :=
  ∀ s : State, exec .nop s = .next s ∧ exec .nop s = exec (.wr .cmd 0) s ∧ exec .process s = exec (.wr .cmd 1) s ∧
    exec .ack s = exec (.wr .cmd 2) s

/-- R87 and R90: PROCESS in a resting phase starts a call, keeping OVR and ILL; while BUSY it is dropped
and sets OVR. -/
def Obligations.ProcessStartsOrIsDropped : Prop :=
  ∀ s : State,
    ((s.phase = .idle ∨ s.phase = .complete ∨ s.phase = .failed) →
      exec .process s = .next { s with err := .none, outLen := 0, phase := .validate }) ∧
    (s.busy = true → exec .process s = .next { s with ovr := true })

/-- R88 and R90: ACK in a resting phase returns to IDLE and clears ERR, OUT_LEN, OVR and ILL, and irq
falls; while BUSY it is dropped and sets OVR. -/
def Obligations.AckReleasesOrIsDropped : Prop :=
  ∀ s : State,
    ((s.phase = .idle ∨ s.phase = .complete ∨ s.phase = .failed) →
      ∃ t, exec .ack s = .next t ∧ t.irq = false ∧
        t = { s with err := .none, outLen := 0, ovr := false, ill := false, phase := .idle }) ∧
    (s.busy = true → exec .ack s = .next { s with ovr := true })

/-- R170 and R171: after any step the line is high exactly when IE is set and the call has ended, and a
CTRL write in COMPLETE or FAILED moves it at once. -/
def Obligations.IrqIsEnabledEndOfCall : Prop :=
  ∀ s : State,
    (s.irq = true ↔ s.ie = true ∧ (s.phase = .complete ∨ s.phase = .failed)) ∧
    ((s.phase = .complete ∨ s.phase = .failed) → ∀ v : Word, ∃ t,
      exec (.wr .ctrl v) s = .next t ∧ t.phase = s.phase ∧ t.irq = v.getLsbD 0)

/-- R15, R172: a step clears OVR or ILL only by an ACK in a resting phase or by reset. -/
def Obligations.StickyFlagsClearedOnlyByAckOrReset : Prop :=
  ∀ s t : State, step s = .next t →
    ((s.ovr = true ∧ t.ovr = false) ∨ (s.ill = true ∧ t.ill = false)) →
    ∃ n e rest, s.inbox = ⟨n, e⟩ :: rest ∧
      (e = .reset ∨ (s.busy = false ∧ ∃ x, e = .access x ∧ decode (.port x) = .ok .ack))

/-! ### Buffers -/

/-- R91: SRCWR stores the byte, in every phase, a raced luma byte included; every other byte and every
register, flag and DST byte is as before; an index at or above SRC_CAP is refused. The plane stores and
the record of raced bytes change only where the write is to a luma byte of a running call. -/
def Obligations.SrcWriteStoresOneByte : Prop :=
  ∀ (s : State) (i : BitVec 32) (b : Byte),
    (s.caps.srcCap ≤ i.toNat → exec (.srcwr i b) s = .refused .srcOutOfRange) ∧
    (i.toNat < s.caps.srcCap →
    ∃ t, exec (.srcwr i b) s = .next t ∧ t.src.read i.toNat = some b ∧
      (∀ a, a ≠ i.toNat → t.src.read a = s.src.read a) ∧ t.resets = s.resets ∧ SameDst s t ∧ SameOperands s t ∧
      SameResults s t ∧ SameFlags s t ∧ SameHost s t ∧ t.phase = s.phase ∧
      t.replies = s.replies ∧
      (s.busy = false ∨ s.pixels ≤ i.toNat → t.planes = s.planes ∧ t.raced = s.raced))

/-- R58, row 4: a luma byte the host overwrites once while BUSY, before the engine has read it, is used
by EXTRACT with its old or its new value. -/
def Obligations.RacedLumaByteIsOldOrNew : Prop :=
  ∀ (s : State) (i : BitVec 32) (old new : Byte) (r c : Nat),
    s.phase = .validate ∨ s.phase = .extract → s.raced = [] → s.pixels ≤ s.caps.maxPixels →
    s.pixels ≤ s.caps.srcCap → r < s.h → c < s.w → i.toNat = r * s.w + c →
    s.src.read i.toNat = some old →
    ∃ t u, exec (.srcwr i new) s = .next t ∧ exec .extract t = .next u ∧
      (u.planes.luma[r * s.w + c]? = some old ∨ u.planes.luma[r * s.w + c]? = some new)

/-- R92: SRCRD returns the last byte written; for a byte never written it returns some byte, and that
same byte at every read, in every state with the same resets so far, until the host writes it (20_memory.md
R50, R59). Nothing else changes. An index at or above SRC_CAP is refused. -/
def Obligations.SrcReadReturnsTheByte : Prop :=
  ∀ (s : State) (i : BitVec 32),
    (s.caps.srcCap ≤ i.toNat → exec (.srcrd i) s = .refused .srcOutOfRange) ∧
    (i.toNat < s.caps.srcCap → ∃ b, (∀ x, s.src.read i.toNat = some x → b = x) ∧
      exec (.srcrd i) s = .next { s with replies := .byte b :: s.replies } ∧
      ∀ t : State, t.caps = s.caps → t.resets = s.resets →
        t.src.read i.toNat = s.src.read i.toNat →
        exec (.srcrd i) t = .next { t with replies := .byte b :: t.replies })

/-- R93: DSTRD returns the DST byte while DONE = 1 and below OUT_LEN, some byte otherwise, and changes
nothing; an index at or above MAX_PIXELS is refused. -/
def Obligations.DstReadReturnsTheEdgeByteWhenDone : Prop :=
  ∀ (s : State) (i : BitVec 32),
    (s.caps.maxPixels ≤ i.toNat → exec (.dstrd i) s = .refused .dstOutOfRange) ∧
    (i.toNat < s.caps.maxPixels →
    (∀ b, s.phase = .complete → i.toNat < s.outLen.toNat → s.dst.read i.toNat = some b →
      exec (.dstrd i) s = .next { s with replies := .byte b :: s.replies }) ∧
    (s.phase ≠ .complete ∨ s.outLen.toNat ≤ i.toNat → ∃ b,
      exec (.dstrd i) s = .next { s with replies := .byte b :: s.replies }))

/-- In states of a run a DSTRD inside the DONE window returns 0 or 255 (20_memory.md R47, R58). -/
def Obligations.DstReadInWindowIsBinary : Prop :=
  ∀ (s : State) (i : BitVec 32), s.Inv → s.phase = .complete → i.toNat < s.outLen.toNat →
    ∃ b, (b = 0 ∨ b = 255) ∧
      exec (.dstrd i) s = .next { s with replies := .byte b :: s.replies }

/-! ### Frames -/

/-- The three reads change nothing (20_memory.md R50): the next state is the same but for the value
returned. -/
def Obligations.ReadsFrame : Prop :=
  ∀ (s t : State) (i : Instr),
    (∃ r, i = .rd r) ∨ (∃ a, i = .srcrd a) ∨ (∃ a, i = .dstrd a) → exec i s = .next t →
    ∃ v, t = { s with replies := v :: s.replies } ∧
      SameOperands s t ∧ SameResults s t ∧ SameFlags s t ∧ SameHost s t ∧ SameSrc s t ∧
      SameDst s t ∧ t.phase = s.phase ∧ t.planes = s.planes ∧ t.raced = s.raced

/-- WR, NOP, PROCESS and ACK: what no register write or command changes, and that each of the writable
registers changes only under its own write. -/
def Obligations.WritesAndCommandsFrame : Prop :=
  ∀ (s t : State) (i : Instr),
    (∃ r v, i = .wr r v) ∨ i = .nop ∨ i = .process ∨ i = .ack → exec i s = .next t →
    SameSrc s t ∧ SameDst s t ∧ SameHost s t ∧ t.planes = s.planes ∧ t.raced = s.raced ∧
    t.replies = s.replies ∧ t.draws = s.draws ∧
    ((∀ v, i ≠ .wr .width v) → t.width = s.width) ∧
    ((∀ v, i ≠ .wr .height v) → t.height = s.height) ∧
    ((∀ v, i ≠ .wr .srcLen v) → t.srcLen = s.srcLen) ∧
    ((∀ v, i ≠ .wr .ctrl v) → t.ie = s.ie) ∧
    ((∀ v, i ≠ .wr .cmd v) → i ≠ .process → i ≠ .ack → SameResults s t ∧ t.phase = s.phase)

/-- EXTRACT to HYST change PHASE and their own plane stores, and nothing else the spec gives the
block (44_flatten.md R154; 10_state.md R20, columns "written by phase"). -/
def Obligations.EngineFrame : Prop :=
  ∀ (s t : State) (i : Instr),
    i ∈ [Instr.extract, .gaussH, .gaussV, .grad, .nms, .classify, .hyst] → exec i s = .next t →
    SameOperands s t ∧ SameResults s t ∧ SameFlags s t ∧ SameHost s t ∧ SameSrc s t ∧
    SameDst s t ∧ t.replies = s.replies ∧
    (i ≠ .extract → t.planes.luma = s.planes.luma ∧ t.raced = s.raced) ∧
    (i ≠ .gaussH → t.planes.hblur = s.planes.hblur) ∧
    (i ≠ .gaussV → t.planes.blur = s.planes.blur) ∧
    (i ≠ .grad → t.planes.gx = s.planes.gx ∧ t.planes.gy = s.planes.gy ∧
      t.planes.mag = s.planes.mag) ∧
    (i ≠ .nms → t.planes.nmsk = s.planes.nmsk) ∧
    (i ≠ .classify → t.planes.cls = s.planes.cls) ∧
    (i ≠ .hyst → t.planes.edge = s.planes.edge)

/-- Host accesses during a call, a write to a luma byte apart, leave the call alone (40_host_commands.md
R84, R86, R89, R90; 10_state.md R26): phase, operands, plane stores, luma bytes, results and DST. -/
def Obligations.HostCannotDisturbARunningCall : Prop :=
  ∀ (s t : State) (n : Nat) (x : Txn) (rest : List Arrival) (i : Instr), s.busy = true →
    s.inbox = ⟨n, .access x⟩ :: rest → n = 0 → decode (.port x) = .ok i →
    (∀ a b, i = .srcwr a b → s.pixels ≤ a.toNat) → step s = .next t →
    t.phase = s.phase ∧ SameOperands s t ∧ SameResults s t ∧ t.planes = s.planes ∧
    t.raced = s.raced ∧ SameDst s t ∧ t.caps = s.caps ∧
    ∀ a, a < s.pixels → t.src.read a = s.src.read a ∧ t.srcByte a = s.srcByte a

/-! ### VALIDATE and the failure entry -/

/-- R100 to R103 and R165: VALIDATE's four branches, in order, on every triple of operands; the failing
ones end as R166 says, every other piece of state unchanged. -/
def Obligations.ValidateTakesExactlyOneBranch : Prop :=
  ∀ (s : State) (w h l : Int), w = s.width.toInt → h = s.height.toInt → l = s.srcLen.toNat →
    (w ≤ 0 ∨ h ≤ 0 → exec .validate s = .next { s with
      err := .invalidDimensions, outLen := 0, phase := .failed, raced := [] }) ∧
    (0 < w → 0 < h → 2 * l < 3 * w * h → exec .validate s = .next { s with
      err := .bufferTooSmall, outLen := 0, phase := .failed, raced := [] }) ∧
    (0 < w → 0 < h → 3 * w * h ≤ 2 * l → s.caps.maxPixels < w * h →
      exec .validate s = .next { s with
        err := .allocationFailure, outLen := 0, phase := .failed, raced := [] }) ∧
    (0 < w → 0 < h → 3 * w * h ≤ 2 * l → w * h ≤ s.caps.maxPixels →
      exec .validate s = .next { s with phase := .extract })

/-- R102, the source's property S6: a declared length of exactly W·H fails with BufferTooSmall, whatever
MAX_PIXELS is. -/
def Obligations.LumaOnlyBufferIsTooSmall : Prop :=
  ∀ s : State, 0 < s.width.toInt → 0 < s.height.toInt →
    (s.srcLen.toNat : Int) = s.width.toInt * s.height.toInt →
    ∃ t, exec .validate s = .next t ∧ t.phase = .failed ∧ t.err = .bufferTooSmall ∧
      t.outLen = 0 ∧ SameSrc s t ∧ SameDst s t ∧ SameOperands s t ∧ SameFlags s t

/-- What a passing VALIDATE establishes (41_validate_extract.md R100, R105): W ≥ 1, H ≥ 1, 1 ≤ W·H ≤
MAX_PIXELS, W·H ≤ L, and every luma index is inside SRC. -/
def Obligations.PassingValidateBoundsTheCall : Prop :=
  ∀ s t : State, s.caps.Wf → exec .validate s = .next t → t.phase = .extract →
    1 ≤ t.wInt ∧ 1 ≤ t.hInt ∧ 1 ≤ t.pixels ∧ t.pixels ≤ t.caps.maxPixels ∧ t.pixels ≤ t.len ∧
    ∀ r c, r < t.h → c < t.w → r * t.w + c < t.len ∧ r * t.w + c < t.caps.srcCap

/-- 10_state.md R27, last paragraph: a PROCESS issued straight after reset fails with
InvalidDimensions. -/
def Obligations.ProcessStraightAfterResetFails : Prop :=
  ∀ s : State, ∃ t u, exec .process s.hardReset = .next t ∧ exec .validate t = .next u ∧
    u.readReg .status = 0x00000B04 ∧ u.readReg .err = 1 ∧ u.readReg .outLen = 0

/-! ### EXTRACT and the filter -/

/-- R104: EXTRACT copies SRC[0 .. W·H − 1] into LUMA and passes to GAUSS_H: where the host did not
overwrite a byte in this call, the byte SRC holds, which is the one SRCRD returns (R59); elsewhere some
byte (R58). -/
def Obligations.ExtractCopiesTheLumaPlane : Prop :=
  ∀ s : State, s.pixels ≤ s.caps.maxPixels → s.pixels ≤ s.caps.srcCap →
    ∃ t, exec .extract s = .next t ∧ t.planes.luma.length = s.pixels ∧
      t = { s with planes := { s.planes with luma := t.planes.luma }, phase := .gaussH, raced := [],
                   draws := t.draws } ∧
      ∀ r c, r < s.h → c < s.w → ∃ b, t.planes.luma[r * s.w + c]? = some b ∧
        ((∀ e ∈ s.raced, e.1 ≠ r * s.w + c) → b = s.srcByte (r * s.w + c) ∧
          ∀ x, s.src.read (r * s.w + c) = some x → b = x)

/-- R112 to R114: FIR1D output i is (31·v[i−2] + 60·v[i−1] + 74·v[i] + 60·v[i+1] + 31·v[i+2] + 128) >> 8
with indices clamped, never overflowing a byte; on a sequence it gives one output for each input. -/
def Obligations.FirIsTheFiveTapSum : Prop :=
  (∀ v : List Byte, (fir1d v).length = v.length ∧ ∀ i, i < v.length →
    (fir1d v)[i]? = some (firAt (fun j => v.getD j 0) v.length i)) ∧
  ∀ (v : Nat → Byte) (n i : Nat),
    (firAt v n i).toNat =
      (31 * (v (clampIdx ((i : Int) - 2) n)).toNat + 60 * (v (clampIdx ((i : Int) - 1) n)).toNat +
        74 * (v (clampIdx i n)).toNat + 60 * (v (clampIdx ((i : Int) + 1) n)).toNat +
        31 * (v (clampIdx ((i : Int) + 2) n)).toNat + 128) / 256

/-- R117 items 1 and 2: an output lies between any two bounds its window lies between; so a constant
window gives the constant. -/
def Obligations.FirStaysWithinItsWindow : Prop :=
  ∀ (v : Nat → Byte) (n i lo hi : Nat),
    (∀ k : Int, -2 ≤ k → k ≤ 2 → lo ≤ (v (clampIdx ((i : Int) + k) n)).toNat ∧
      (v (clampIdx ((i : Int) + k) n)).toNat ≤ hi) →
    lo ≤ (firAt v n i).toNat ∧ (firAt v n i).toNat ≤ hi

/-- R117 item 3: raising any input never lowers any output. -/
def Obligations.FirIsMonotone : Prop :=
  ∀ (u v : Nat → Byte) (n i : Nat), 0 < n → (∀ j, j < n → (u j).toNat ≤ (v j).toNat) →
    (firAt u n i).toNat ≤ (firAt v n i).toNat

/-- R117 item 4: reversing the input sequence reverses the output sequence. -/
def Obligations.FirIsMirrorSymmetric : Prop :=
  ∀ v : List Byte, fir1d v.reverse = (fir1d v).reverse

/-- R115: GAUSS_H filters each row of LUMA into HBLUR and passes to GAUSS_V. -/
def Obligations.GaussHFiltersTheRows : Prop :=
  ∀ s : State, s.pixels ≤ s.caps.maxPixels →
    ∃ t, exec .gaussH s = .next t ∧ t.planes.hblur.length = s.pixels ∧
      t = { s with planes := { s.planes with hblur := t.planes.hblur }, phase := .gaussV,
                   draws := t.draws } ∧
      ∀ r c, r < s.h → c < s.w → ∃ b, t.planes.hblur[r * s.w + c]? = some b ∧
        b.toNat = (31 * (s.lumaAt r (clampIdx ((c : Int) - 2) s.w)).toNat +
          60 * (s.lumaAt r (clampIdx ((c : Int) - 1) s.w)).toNat + 74 * (s.lumaAt r c).toNat +
          60 * (s.lumaAt r (clampIdx ((c : Int) + 1) s.w)).toNat +
          31 * (s.lumaAt r (clampIdx ((c : Int) + 2) s.w)).toNat + 128) / 256

/-- R116: GAUSS_V filters each column of HBLUR into BLUR and passes to GRAD. -/
def Obligations.GaussVFiltersTheColumns : Prop :=
  ∀ s : State, s.pixels ≤ s.caps.maxPixels →
    ∃ t, exec .gaussV s = .next t ∧ t.planes.blur.length = s.pixels ∧
      t = { s with planes := { s.planes with blur := t.planes.blur }, phase := .grad,
                   draws := t.draws } ∧
      ∀ r c, r < s.h → c < s.w → ∃ b, t.planes.blur[r * s.w + c]? = some b ∧
        b.toNat = (31 * (s.hblurAt (clampIdx ((r : Int) - 2) s.h) c).toNat +
          60 * (s.hblurAt (clampIdx ((r : Int) - 1) s.h) c).toNat + 74 * (s.hblurAt r c).toNat +
          60 * (s.hblurAt (clampIdx ((r : Int) + 1) s.h) c).toNat +
          31 * (s.hblurAt (clampIdx ((r : Int) + 2) s.h) c).toNat + 128) / 256

/-! ### The detector -/

/-- R126, R127 and R129: GRAD writes the Sobel differences and the L1 magnitude of every pixel, borders
replicated, without overflow, and passes to NMS. -/
def Obligations.GradComputesSobelAndL1 : Prop :=
  ∀ s : State, s.pixels ≤ s.caps.maxPixels →
    ∃ t, exec .grad s = .next t ∧ t.planes.gx.length = s.pixels ∧
      t.planes.gy.length = s.pixels ∧ t.planes.mag.length = s.pixels ∧
      t = { s with phase := .nms, draws := t.draws,
                   planes := { s.planes with
                     gx := t.planes.gx, gy := t.planes.gy, mag := t.planes.mag } } ∧
      ∀ r c, r < s.h → c < s.w → ∃ x y m,
        t.planes.gx[r * s.w + c]? = some x ∧ t.planes.gy[r * s.w + c]? = some y ∧
        t.planes.mag[r * s.w + c]? = some m ∧
        (let p : Int → Int → Int := fun dr dc =>
            ((s.blurAt (clampIdx ((r : Int) + dr) s.h) (clampIdx ((c : Int) + dc) s.w)).toNat : Int)
         x.toInt = (p (-1) 1 + 2 * p 0 1 + p 1 1) - (p (-1) (-1) + 2 * p 0 (-1) + p 1 (-1)) ∧
         y.toInt = (p 1 (-1) + 2 * p 1 0 + p 1 1) - (p (-1) (-1) + 2 * p (-1) 0 + p (-1) 1) ∧
         (m.toNat : Int) = |x.toInt| + |y.toInt| ∧
         -1020 ≤ x.toInt ∧ x.toInt ≤ 1020 ∧ -1020 ≤ y.toInt ∧ y.toInt ≤ 1020 ∧ m.toNat ≤ 2040)

/-- R131: DIR, its four outcomes in order; and on values GRAD can produce the two sides of a comparison
are equal only when gx = gy = 0. -/
def Obligations.DirectionQuantisesTheGradient : Prop :=
  ∀ gx gy : Int,
    (|gy| * 32768 < |gx| * 13573 → direction gx gy = .row) ∧
    (|gx| * 13573 ≤ |gy| * 32768 → |gx| * 79109 < |gy| * 32768 → direction gx gy = .column) ∧
    (|gx| * 13573 ≤ |gy| * 32768 → |gy| * 32768 ≤ |gx| * 79109 →
      direction gx gy = if (gx < 0 ↔ gy < 0) then .mainDiag else .antiDiag) ∧
    (|gx| ≤ 1020 → |gy| ≤ 1020 →
      (|gy| * 32768 = |gx| * 13573 ∨ |gy| * 32768 = |gx| * 79109) → gx = 0 ∧ gy = 0)

/-- R132, R133 and R135: NMS keeps a pixel exactly when its magnitude is above its first neighbour's and
not below its second's along its direction, 0 outside the plane, and passes to CLASSIFY. -/
def Obligations.NmsKeepsLocalMaxima : Prop :=
  ∀ s : State, s.pixels ≤ s.caps.maxPixels →
    ∃ t, exec .nms s = .next t ∧ t.planes.nmsk.length = s.pixels ∧
      t = { s with planes := { s.planes with nmsk := t.planes.nmsk }, phase := .classify,
                   draws := t.draws } ∧
      ∀ r c, r < s.h → c < s.w → ∃ k, t.planes.nmsk[r * s.w + c]? = some k ∧
        (let m : Int → Int → Nat := fun a b =>
            if 0 ≤ a ∧ a < s.h ∧ 0 ≤ b ∧ b < s.w then s.magAt a.toNat b.toNat else 0
         let kept : Int → Int → Int → Int → Prop := fun r1 c1 r2 c2 =>
            m r1 c1 < s.magAt r c ∧ m r2 c2 ≤ s.magAt r c
         match direction (s.gxAt r c) (s.gyAt r c) with
         | .row => k = true ↔ kept r (c - 1) r (c + 1)
         | .mainDiag => k = true ↔ kept (r - 1) (c - 1) (r + 1) (c + 1)
         | .column => k = true ↔ kept (r - 1) c (r + 1) c
         | .antiDiag => k = true ↔ kept (r - 1) (c + 1) (r + 1) (c - 1))

/-- R133: the keep condition; of two pixels next to each other along a direction, of equal magnitude and
above their outer neighbours, exactly the one with the smaller index is kept; a pixel of magnitude 0 is
never kept. -/
def Obligations.TiesKeepTheSmallerIndex : Prop :=
  ∀ (h w : Nat) (mag : Nat → Nat → Nat) (d : Dir) (r c r' c' : Nat),
    r < h → c < w → r' < h → c' < w →
    (let m : Int × Int → Nat := magOutsideZero h w mag
     (isKept h w mag d r c = true ↔
       m (neighbour1 d r c) < mag r c ∧ m (neighbour2 d r c) ≤ mag r c) ∧
     (neighbour1 d r c = ((r' : Int), (c' : Int)) → mag r' c' = mag r c →
       m (neighbour1 d r' c') < mag r' c' → m (neighbour2 d r c) < mag r c →
       isKept h w mag d r' c' = true ∧ isKept h w mag d r c = false ∧
       rowMajor w r' c' < rowMajor w r c) ∧
     (mag r c = 0 → isKept h w mag d r c = false))

/-- R137: CLASSIFY, its four lines, and PHASE passes to HYST. -/
def Obligations.ClassifySortsByTheThresholds : Prop :=
  ∀ s : State, s.pixels ≤ s.caps.maxPixels →
    ∃ t, exec .classify s = .next t ∧ t.planes.cls.length = s.pixels ∧
      t = { s with planes := { s.planes with cls := t.planes.cls }, phase := .hyst,
                   draws := t.draws } ∧
      ∀ r c, r < s.h → c < s.w → ∃ k, t.planes.cls[r * s.w + c]? = some k ∧
        (s.nmskAt r c = false → k = .none) ∧
        (s.nmskAt r c = true → s.magAt r c < 50 → k = .none) ∧
        (s.nmskAt r c = true → 50 ≤ s.magAt r c → s.magAt r c ≤ 150 → k = .weak) ∧
        (s.nmskAt r c = true → 150 < s.magAt r c → k = .strong)

/-- R138 and R139: HYST's EDGE is exactly the smallest set E: the strong positions, and the weak
positions with an 8-neighbour in E; and PHASE passes to FLATTEN. -/
def Obligations.HystIsTheLeastConnectedSet : Prop :=
  ∀ s : State, s.pixels ≤ s.caps.maxPixels →
    ∃ t, exec .hyst s = .next t ∧ t.planes.edge.length = s.pixels ∧
      t = { s with planes := { s.planes with edge := t.planes.edge }, phase := .flatten,
                   draws := t.draws } ∧
      ∀ r c, r < s.h → c < s.w →
        (t.planes.edge[r * s.w + c]? = some true ↔ EdgeSet s.h s.w s.clsAt r c)

/-- R140 item 4 and R138: with no strong pixel nothing is an edge, however many weak pixels there are. -/
def Obligations.NoStrongPixelNoEdge : Prop :=
  ∀ (h w : Nat) (cls : Nat → Nat → Cls), (∀ r c, r < h → c < w → cls r c ≠ .strong) →
    edgePlane h w cls = List.replicate (h * w) false

/-! ### FLATTEN and the whole call -/

/-- R150 and R151: FLATTEN writes 255 or 0 to DST[0 .. W·H − 1] and no other byte, sets OUT_LEN to W·H
and enters COMPLETE; everything else the spec gives the block stays, the plane stores apart. -/
def Obligations.FlattenWritesTheEdgeMap : Prop :=
  ∀ s : State, s.caps.Wf → s.pixels ≤ s.caps.maxPixels →
    ∃ t, exec .flatten s = .next t ∧ t.outLen.toNat = s.pixels ∧
      (∀ r c, r < s.h → c < s.w →
        t.dst.read (r * s.w + c) = some (if s.edgeAt r c then 255 else 0)) ∧
      (∀ a, s.pixels ≤ a → t.dst.read a = s.dst.read a) ∧
      t = { s with dst := t.dst, outLen := t.outLen, err := .none, phase := .complete,
                   planes := t.planes, draws := t.draws }

/-- A frame larger than the stores is where the engine operations stop, by name; no run reaches it
(`NoFaultInAnyRun`). The stop is the model's choice, log 17. -/
def Obligations.OversizedFramesFaultByName : Prop :=
  ∀ s : State, s.caps.maxPixels < s.pixels →
    (∀ i ∈ [Instr.gaussH, .gaussV, .grad, .nms, .classify, .hyst],
      exec i s = .fault .storeOverflow) ∧
    exec .flatten s = .fault .dstIndexAbsent ∧
    (s.pixels ≤ s.caps.srcCap → exec .extract s = .fault .storeOverflow) ∧
    (s.caps.srcCap < s.pixels → exec .extract s = .fault .srcIndexAbsent)

/-- Nine steps from an accepted PROCESS compute `processFrame` (R152) of the SRC bytes and the operands:
COMPLETE with the EdgeMap in DST, or FAILED with its code and DST untouched. A failing call takes one
engine step; the eight after it are the model's resting steps, log 10. An unwritten SRC byte has some
value, the one SRCRD returns before and after the call (R59, log 4). -/
def Obligations.CallComputesProcessFrame : Prop :=
  ∀ s : State, s.phase = .validate → s.inbox = [] → s.raced = [] → s.caps.Wf →
    ∃ t, Host.Core.run Sys2Proof.core 9 s = .next t ∧ SameOperands s t ∧ SameFlags s t ∧
      SameSrc s t ∧
      match processFrame s.caps.maxPixels s.srcByte s.len s.wInt s.hInt with
      | .error e => t.phase = .failed ∧ t.err = e ∧ t.outLen = 0 ∧ SameDst s t
      | .ok out => t.phase = .complete ∧ t.err = .none ∧ t.outLen.toNat = out.length ∧
          out.length = s.pixels ∧ (∀ i < s.pixels, t.dst.read i = out[i]?) ∧
          ∀ i, s.pixels ≤ i → t.dst.read i = s.dst.read i

/-- R26: two calls on the same operands, capacities and luma bytes end alike, whatever else the two states
hold: earlier results, flags, CTRL, DST, chroma bytes. The steps of a failing call after its first are the
model's resting steps, log 10. -/
def Obligations.CallsAreIndependent : Prop :=
  ∀ s s' : State, s.phase = .validate → s'.phase = .validate → s.inbox = [] → s'.inbox = [] →
    s.raced = [] → s'.raced = [] → s.caps.Wf → s'.caps = s.caps → SameOperands s s' →
    (∀ i < s.pixels, s'.srcByte i = s.srcByte i) →
    ∃ t t', Host.Core.run Sys2Proof.core 9 s = .next t ∧
      Host.Core.run Sys2Proof.core 9 s' = .next t' ∧
      t'.phase = t.phase ∧ t'.err = t.err ∧ t'.outLen = t.outLen ∧
      ∀ i < t.outLen.toNat, t'.dst.read i = t.dst.read i

/-- R153, rows 2 and 3: every EdgeMap has length W·H and bytes 0 or 255 only. -/
def Obligations.EdgeMapIsBinaryAndFull : Prop :=
  ∀ (maxPixels : Nat) (buf : Nat → Byte) (l : Nat) (w h : Int) (out : List Byte),
    processFrame maxPixels buf l w h = .ok out →
    (out.length : Int) = w * h ∧ ∀ b ∈ out, b = 0 ∨ b = 255

/-- R153, row 1, and R140 item 3: a frame of one constant luma value, 0 included, has an all-zero
EdgeMap, whatever its chroma bytes. -/
def Obligations.ConstantFrameHasNoEdges : Prop :=
  ∀ (maxPixels : Nat) (buf : Nat → Byte) (l : Nat) (w h : Int) (x : Byte) (out : List Byte),
    (∀ i : Nat, (i : Int) < w * h → buf i = x) → processFrame maxPixels buf l w h = .ok out →
    out = List.replicate (w * h).toNat 0

/-- R201: a call whose host is silent reaches COMPLETE or FAILED in at most nine engine steps. -/
def Obligations.EveryCallEndsWithinNineSteps : Prop :=
  ∀ s : State, s.Inv → s.busy = true → s.inbox = [] →
    ∃ k t, k ≤ 9 ∧ Host.Core.run Sys2Proof.core k s = .next t ∧
      (t.phase = .complete ∨ t.phase = .failed)

/-! ### Whole-machine rules -/

/-- Every step keeps the invariant: capacities and canonical memories, ERR with FAIL (10_state.md R13),
OUT_LEN with DONE (R12), the EdgeMap binary (20_memory.md R47), the frame inside the stores after
VALIDATE (41_validate_extract.md R100), the ranges of GX, GY and MAG (10_state.md R20). -/
def Obligations.EveryStepKeepsTheInvariant : Prop :=
  ∀ s t : State, s.Inv → step s = .next t → t.Inv

/-- The invariant holds at reset, and again after a reset event in any state of a run. -/
def Obligations.ResetEstablishesTheInvariant : Prop :=
  State.reset.Inv ∧ ∀ s : State, s.caps.Wf → s.hardReset.Inv

/-- R160: "No other phase can fail". In states of a run the machine never faults, and while no refused
access is due it never stops. -/
def Obligations.NoFaultInAnyRun : Prop :=
  ∀ s : State, s.Inv → (∀ f, step s ≠ .fault f) ∧
    ((∀ n x rest, s.inbox = ⟨n, .access x⟩ :: rest →
        ∃ i, decode (.port x) = .ok i ∧ i.wellFormed s.caps = true) →
      ∃ t, step s = .next t)

/-- R191 and R27: reset lands in any phase; all eleven registers take their reset values, where CAP,
THRESH and COEF never change (10_state.md R18) and CMD reads 0 (R19); SRC and DST hold nothing, the block
rests in IDLE, and the capacities stay. -/
def Obligations.ResetTakesEveryRegisterToItsValue : Prop :=
  ∀ (s : State) (n : Nat) (rest : List Arrival), s.inbox = ⟨n, .reset⟩ :: rest →
    n = 0 ∨ s.busy = false →
    ∃ t, step s = .next t ∧ t.phase = .idle ∧ t.readReg .cmd = 0 ∧ t.readReg .status = 0 ∧
      t.readReg .err = 0 ∧ t.caps = s.caps ∧ t.readReg .cap = s.readReg .cap ∧
      t.readReg .ctrl = 0 ∧ t.readReg .width = 0 ∧ t.readReg .height = 0 ∧
      t.readReg .srcLen = 0 ∧ t.readReg .outLen = 0 ∧ t.readReg .thresh = 0x00960032 ∧
      t.readReg .coef = 0x081F3C4A ∧ t.irq = false ∧ (∀ a, t.src.read a = none) ∧
      (∀ a, t.dst.read a = none) ∧ t.planes = Planes.empty

/-- R154, R104 and R92: no step of the engine changes SRC or what SRCRD returns, an operand register,
CTRL, OVR or ILL, and only FLATTEN changes DST. -/
def Obligations.EngineLeavesTheHostsStateAlone : Prop :=
  ∀ s t : State, step s = .next t → (∀ a rest, s.inbox = a :: rest → a.gap ≠ 0) →
    s.busy = true →
    SameSrc s t ∧ (∀ i, t.srcByte i = s.srcByte i) ∧ SameOperands s t ∧ SameFlags s t ∧
    t.caps = s.caps ∧ t.replies = s.replies ∧
    (s.phase ≠ .flatten → SameDst s t)
end

