-- ==== Sys2Proof/Laws/State.lean ====
section
/-! SUPPORT. One lemma per field per named update of the state, each true by rfl, and what the
conditional updates leave alone. -/

namespace Sys2Proof.Machine

/-! ### State.setOvr -/

@[simp] theorem State.setOvr_phase (s : State) : s.setOvr.phase = s.phase := rfl
@[simp] theorem State.setOvr_ovr (s : State) : s.setOvr.ovr = true := rfl
@[simp] theorem State.setOvr_ill (s : State) : s.setOvr.ill = s.ill := rfl
@[simp] theorem State.setOvr_err (s : State) : s.setOvr.err = s.err := rfl
@[simp] theorem State.setOvr_ie (s : State) : s.setOvr.ie = s.ie := rfl
@[simp] theorem State.setOvr_width (s : State) : s.setOvr.width = s.width := rfl
@[simp] theorem State.setOvr_height (s : State) : s.setOvr.height = s.height := rfl
@[simp] theorem State.setOvr_srcLen (s : State) : s.setOvr.srcLen = s.srcLen := rfl
@[simp] theorem State.setOvr_outLen (s : State) : s.setOvr.outLen = s.outLen := rfl
@[simp] theorem State.setOvr_planes (s : State) : s.setOvr.planes = s.planes := rfl
@[simp] theorem State.setOvr_src (s : State) : s.setOvr.src = s.src := rfl
@[simp] theorem State.setOvr_dst (s : State) : s.setOvr.dst = s.dst := rfl
@[simp] theorem State.setOvr_caps (s : State) : s.setOvr.caps = s.caps := rfl
@[simp] theorem State.setOvr_inbox (s : State) : s.setOvr.inbox = s.inbox := rfl
@[simp] theorem State.setOvr_replies (s : State) : s.setOvr.replies = s.replies := rfl
@[simp] theorem State.setOvr_raced (s : State) : s.setOvr.raced = s.raced := rfl
@[simp] theorem State.setOvr_resets (s : State) : s.setOvr.resets = s.resets := rfl
@[simp] theorem State.setOvr_draws (s : State) : s.setOvr.draws = s.draws := rfl

/-! ### State.setIll -/

@[simp] theorem State.setIll_phase (s : State) : s.setIll.phase = s.phase := rfl
@[simp] theorem State.setIll_ovr (s : State) : s.setIll.ovr = s.ovr := rfl
@[simp] theorem State.setIll_ill (s : State) : s.setIll.ill = true := rfl
@[simp] theorem State.setIll_err (s : State) : s.setIll.err = s.err := rfl
@[simp] theorem State.setIll_ie (s : State) : s.setIll.ie = s.ie := rfl
@[simp] theorem State.setIll_width (s : State) : s.setIll.width = s.width := rfl
@[simp] theorem State.setIll_height (s : State) : s.setIll.height = s.height := rfl
@[simp] theorem State.setIll_srcLen (s : State) : s.setIll.srcLen = s.srcLen := rfl
@[simp] theorem State.setIll_outLen (s : State) : s.setIll.outLen = s.outLen := rfl
@[simp] theorem State.setIll_planes (s : State) : s.setIll.planes = s.planes := rfl
@[simp] theorem State.setIll_src (s : State) : s.setIll.src = s.src := rfl
@[simp] theorem State.setIll_dst (s : State) : s.setIll.dst = s.dst := rfl
@[simp] theorem State.setIll_caps (s : State) : s.setIll.caps = s.caps := rfl
@[simp] theorem State.setIll_inbox (s : State) : s.setIll.inbox = s.inbox := rfl
@[simp] theorem State.setIll_replies (s : State) : s.setIll.replies = s.replies := rfl
@[simp] theorem State.setIll_raced (s : State) : s.setIll.raced = s.raced := rfl
@[simp] theorem State.setIll_resets (s : State) : s.setIll.resets = s.resets := rfl
@[simp] theorem State.setIll_draws (s : State) : s.setIll.draws = s.draws := rfl

/-! ### State.startCall -/

@[simp] theorem State.startCall_phase (s : State) : s.startCall.phase = .validate := rfl
@[simp] theorem State.startCall_ovr (s : State) : s.startCall.ovr = s.ovr := rfl
@[simp] theorem State.startCall_ill (s : State) : s.startCall.ill = s.ill := rfl
@[simp] theorem State.startCall_err (s : State) : s.startCall.err = .none := rfl
@[simp] theorem State.startCall_ie (s : State) : s.startCall.ie = s.ie := rfl
@[simp] theorem State.startCall_width (s : State) : s.startCall.width = s.width := rfl
@[simp] theorem State.startCall_height (s : State) : s.startCall.height = s.height := rfl
@[simp] theorem State.startCall_srcLen (s : State) : s.startCall.srcLen = s.srcLen := rfl
@[simp] theorem State.startCall_outLen (s : State) : s.startCall.outLen = 0 := rfl
@[simp] theorem State.startCall_planes (s : State) : s.startCall.planes = s.planes := rfl
@[simp] theorem State.startCall_src (s : State) : s.startCall.src = s.src := rfl
@[simp] theorem State.startCall_dst (s : State) : s.startCall.dst = s.dst := rfl
@[simp] theorem State.startCall_caps (s : State) : s.startCall.caps = s.caps := rfl
@[simp] theorem State.startCall_inbox (s : State) : s.startCall.inbox = s.inbox := rfl
@[simp] theorem State.startCall_replies (s : State) : s.startCall.replies = s.replies := rfl
@[simp] theorem State.startCall_raced (s : State) : s.startCall.raced = s.raced := rfl
@[simp] theorem State.startCall_resets (s : State) : s.startCall.resets = s.resets := rfl
@[simp] theorem State.startCall_draws (s : State) : s.startCall.draws = s.draws := rfl

/-! ### State.acknowledge -/

@[simp] theorem State.acknowledge_phase (s : State) : s.acknowledge.phase = .idle := rfl
@[simp] theorem State.acknowledge_ovr (s : State) : s.acknowledge.ovr = false := rfl
@[simp] theorem State.acknowledge_ill (s : State) : s.acknowledge.ill = false := rfl
@[simp] theorem State.acknowledge_err (s : State) : s.acknowledge.err = .none := rfl
@[simp] theorem State.acknowledge_ie (s : State) : s.acknowledge.ie = s.ie := rfl
@[simp] theorem State.acknowledge_width (s : State) : s.acknowledge.width = s.width := rfl
@[simp] theorem State.acknowledge_height (s : State) : s.acknowledge.height = s.height := rfl
@[simp] theorem State.acknowledge_srcLen (s : State) : s.acknowledge.srcLen = s.srcLen := rfl
@[simp] theorem State.acknowledge_outLen (s : State) : s.acknowledge.outLen = 0 := rfl
@[simp] theorem State.acknowledge_planes (s : State) : s.acknowledge.planes = s.planes := rfl
@[simp] theorem State.acknowledge_src (s : State) : s.acknowledge.src = s.src := rfl
@[simp] theorem State.acknowledge_dst (s : State) : s.acknowledge.dst = s.dst := rfl
@[simp] theorem State.acknowledge_caps (s : State) : s.acknowledge.caps = s.caps := rfl
@[simp] theorem State.acknowledge_inbox (s : State) : s.acknowledge.inbox = s.inbox := rfl
@[simp] theorem State.acknowledge_replies (s : State) : s.acknowledge.replies = s.replies := rfl
@[simp] theorem State.acknowledge_raced (s : State) : s.acknowledge.raced = s.raced := rfl
@[simp] theorem State.acknowledge_resets (s : State) : s.acknowledge.resets = s.resets := rfl
@[simp] theorem State.acknowledge_draws (s : State) : s.acknowledge.draws = s.draws := rfl

/-! ### State.raise -/

@[simp] theorem State.raise_phase (s : State) (e : ErrCode) : (s.raise e).phase = .failed := rfl
@[simp] theorem State.raise_ovr (s : State) (e : ErrCode) : (s.raise e).ovr = s.ovr := rfl
@[simp] theorem State.raise_ill (s : State) (e : ErrCode) : (s.raise e).ill = s.ill := rfl
@[simp] theorem State.raise_err (s : State) (e : ErrCode) : (s.raise e).err = e := rfl
@[simp] theorem State.raise_ie (s : State) (e : ErrCode) : (s.raise e).ie = s.ie := rfl
@[simp] theorem State.raise_width (s : State) (e : ErrCode) : (s.raise e).width = s.width := rfl
@[simp] theorem State.raise_height (s : State) (e : ErrCode) : (s.raise e).height = s.height := rfl
@[simp] theorem State.raise_srcLen (s : State) (e : ErrCode) : (s.raise e).srcLen = s.srcLen := rfl
@[simp] theorem State.raise_outLen (s : State) (e : ErrCode) : (s.raise e).outLen = 0 := rfl
@[simp] theorem State.raise_planes (s : State) (e : ErrCode) : (s.raise e).planes = s.planes := rfl
@[simp] theorem State.raise_src (s : State) (e : ErrCode) : (s.raise e).src = s.src := rfl
@[simp] theorem State.raise_dst (s : State) (e : ErrCode) : (s.raise e).dst = s.dst := rfl
@[simp] theorem State.raise_caps (s : State) (e : ErrCode) : (s.raise e).caps = s.caps := rfl
@[simp] theorem State.raise_inbox (s : State) (e : ErrCode) : (s.raise e).inbox = s.inbox := rfl
@[simp] theorem State.raise_replies (s : State) (e : ErrCode) : (s.raise e).replies = s.replies := rfl
@[simp] theorem State.raise_raced (s : State) (e : ErrCode) : (s.raise e).raced = [] := rfl
@[simp] theorem State.raise_resets (s : State) (e : ErrCode) : (s.raise e).resets = s.resets := rfl
@[simp] theorem State.raise_draws (s : State) (e : ErrCode) : (s.raise e).draws = s.draws := rfl

/-! ### State.completeEntry -/

@[simp] theorem State.completeEntry_phase (s : State) : s.completeEntry.phase = .complete := rfl
@[simp] theorem State.completeEntry_ovr (s : State) : s.completeEntry.ovr = s.ovr := rfl
@[simp] theorem State.completeEntry_ill (s : State) : s.completeEntry.ill = s.ill := rfl
@[simp] theorem State.completeEntry_err (s : State) : s.completeEntry.err = .none := rfl
@[simp] theorem State.completeEntry_ie (s : State) : s.completeEntry.ie = s.ie := rfl
@[simp] theorem State.completeEntry_width (s : State) : s.completeEntry.width = s.width := rfl
@[simp] theorem State.completeEntry_height (s : State) : s.completeEntry.height = s.height := rfl
@[simp] theorem State.completeEntry_srcLen (s : State) : s.completeEntry.srcLen = s.srcLen := rfl
@[simp] theorem State.completeEntry_outLen (s : State) : s.completeEntry.outLen = BitVec.ofNat 32 s.pixels := rfl
@[simp] theorem State.completeEntry_planes (s : State) : s.completeEntry.planes = Planes.empty := rfl
@[simp] theorem State.completeEntry_src (s : State) : s.completeEntry.src = s.src := rfl
@[simp] theorem State.completeEntry_dst (s : State) : s.completeEntry.dst = s.dst := rfl
@[simp] theorem State.completeEntry_caps (s : State) : s.completeEntry.caps = s.caps := rfl
@[simp] theorem State.completeEntry_inbox (s : State) : s.completeEntry.inbox = s.inbox := rfl
@[simp] theorem State.completeEntry_replies (s : State) : s.completeEntry.replies = s.replies := rfl
@[simp] theorem State.completeEntry_raced (s : State) : s.completeEntry.raced = s.raced := rfl
@[simp] theorem State.completeEntry_resets (s : State) : s.completeEntry.resets = s.resets := rfl
@[simp] theorem State.completeEntry_draws (s : State) : s.completeEntry.draws = s.draws := rfl

/-! ### State.reply -/

@[simp] theorem State.reply_phase (s : State) (v : Reply) : (s.reply v).phase = s.phase := rfl
@[simp] theorem State.reply_ovr (s : State) (v : Reply) : (s.reply v).ovr = s.ovr := rfl
@[simp] theorem State.reply_ill (s : State) (v : Reply) : (s.reply v).ill = s.ill := rfl
@[simp] theorem State.reply_err (s : State) (v : Reply) : (s.reply v).err = s.err := rfl
@[simp] theorem State.reply_ie (s : State) (v : Reply) : (s.reply v).ie = s.ie := rfl
@[simp] theorem State.reply_width (s : State) (v : Reply) : (s.reply v).width = s.width := rfl
@[simp] theorem State.reply_height (s : State) (v : Reply) : (s.reply v).height = s.height := rfl
@[simp] theorem State.reply_srcLen (s : State) (v : Reply) : (s.reply v).srcLen = s.srcLen := rfl
@[simp] theorem State.reply_outLen (s : State) (v : Reply) : (s.reply v).outLen = s.outLen := rfl
@[simp] theorem State.reply_planes (s : State) (v : Reply) : (s.reply v).planes = s.planes := rfl
@[simp] theorem State.reply_src (s : State) (v : Reply) : (s.reply v).src = s.src := rfl
@[simp] theorem State.reply_dst (s : State) (v : Reply) : (s.reply v).dst = s.dst := rfl
@[simp] theorem State.reply_caps (s : State) (v : Reply) : (s.reply v).caps = s.caps := rfl
@[simp] theorem State.reply_inbox (s : State) (v : Reply) : (s.reply v).inbox = s.inbox := rfl
@[simp] theorem State.reply_replies (s : State) (v : Reply) : (s.reply v).replies = v :: s.replies := rfl
@[simp] theorem State.reply_raced (s : State) (v : Reply) : (s.reply v).raced = s.raced := rfl
@[simp] theorem State.reply_resets (s : State) (v : Reply) : (s.reply v).resets = s.resets := rfl
@[simp] theorem State.reply_draws (s : State) (v : Reply) : (s.reply v).draws = s.draws := rfl

/-! ### State.hardReset -/

@[simp] theorem State.hardReset_phase (s : State) : s.hardReset.phase = .idle := rfl
@[simp] theorem State.hardReset_ovr (s : State) : s.hardReset.ovr = false := rfl
@[simp] theorem State.hardReset_ill (s : State) : s.hardReset.ill = false := rfl
@[simp] theorem State.hardReset_err (s : State) : s.hardReset.err = .none := rfl
@[simp] theorem State.hardReset_ie (s : State) : s.hardReset.ie = false := rfl
@[simp] theorem State.hardReset_width (s : State) : s.hardReset.width = 0 := rfl
@[simp] theorem State.hardReset_height (s : State) : s.hardReset.height = 0 := rfl
@[simp] theorem State.hardReset_srcLen (s : State) : s.hardReset.srcLen = 0 := rfl
@[simp] theorem State.hardReset_outLen (s : State) : s.hardReset.outLen = 0 := rfl
@[simp] theorem State.hardReset_planes (s : State) : s.hardReset.planes = Planes.empty := rfl
@[simp] theorem State.hardReset_src (s : State) : s.hardReset.src = [] := rfl
@[simp] theorem State.hardReset_dst (s : State) : s.hardReset.dst = [] := rfl
@[simp] theorem State.hardReset_caps (s : State) : s.hardReset.caps = s.caps := rfl
@[simp] theorem State.hardReset_inbox (s : State) : s.hardReset.inbox = s.inbox := rfl
@[simp] theorem State.hardReset_replies (s : State) : s.hardReset.replies = s.replies := rfl
@[simp] theorem State.hardReset_raced (s : State) : s.hardReset.raced = [] := rfl
@[simp] theorem State.hardReset_resets (s : State) : s.hardReset.resets = s.resets + 1 := rfl
@[simp] theorem State.hardReset_draws (s : State) : s.hardReset.draws = s.draws + 1 := rfl

/-! ### State.writeSrc: everything but SRC, the raced bytes and the plane stores -/

@[simp] theorem State.writeSrc_phase (s : State) (i : Nat) (b : Byte) : (s.writeSrc i b).phase = s.phase := by
  unfold State.writeSrc; dsimp only; split <;> [split; skip] <;> rfl
@[simp] theorem State.writeSrc_ovr (s : State) (i : Nat) (b : Byte) : (s.writeSrc i b).ovr = s.ovr := by
  unfold State.writeSrc; dsimp only; split <;> [split; skip] <;> rfl
@[simp] theorem State.writeSrc_ill (s : State) (i : Nat) (b : Byte) : (s.writeSrc i b).ill = s.ill := by
  unfold State.writeSrc; dsimp only; split <;> [split; skip] <;> rfl
@[simp] theorem State.writeSrc_err (s : State) (i : Nat) (b : Byte) : (s.writeSrc i b).err = s.err := by
  unfold State.writeSrc; dsimp only; split <;> [split; skip] <;> rfl
@[simp] theorem State.writeSrc_ie (s : State) (i : Nat) (b : Byte) : (s.writeSrc i b).ie = s.ie := by
  unfold State.writeSrc; dsimp only; split <;> [split; skip] <;> rfl
@[simp] theorem State.writeSrc_width (s : State) (i : Nat) (b : Byte) : (s.writeSrc i b).width = s.width := by
  unfold State.writeSrc; dsimp only; split <;> [split; skip] <;> rfl
@[simp] theorem State.writeSrc_height (s : State) (i : Nat) (b : Byte) : (s.writeSrc i b).height = s.height := by
  unfold State.writeSrc; dsimp only; split <;> [split; skip] <;> rfl
@[simp] theorem State.writeSrc_srcLen (s : State) (i : Nat) (b : Byte) : (s.writeSrc i b).srcLen = s.srcLen := by
  unfold State.writeSrc; dsimp only; split <;> [split; skip] <;> rfl
@[simp] theorem State.writeSrc_outLen (s : State) (i : Nat) (b : Byte) : (s.writeSrc i b).outLen = s.outLen := by
  unfold State.writeSrc; dsimp only; split <;> [split; skip] <;> rfl
@[simp] theorem State.writeSrc_dst (s : State) (i : Nat) (b : Byte) : (s.writeSrc i b).dst = s.dst := by
  unfold State.writeSrc; dsimp only; split <;> [split; skip] <;> rfl
@[simp] theorem State.writeSrc_caps (s : State) (i : Nat) (b : Byte) : (s.writeSrc i b).caps = s.caps := by
  unfold State.writeSrc; dsimp only; split <;> [split; skip] <;> rfl
@[simp] theorem State.writeSrc_inbox (s : State) (i : Nat) (b : Byte) : (s.writeSrc i b).inbox = s.inbox := by
  unfold State.writeSrc; dsimp only; split <;> [split; skip] <;> rfl
@[simp] theorem State.writeSrc_replies (s : State) (i : Nat) (b : Byte) : (s.writeSrc i b).replies = s.replies := by
  unfold State.writeSrc; dsimp only; split <;> [split; skip] <;> rfl
@[simp] theorem State.writeSrc_resets (s : State) (i : Nat) (b : Byte) : (s.writeSrc i b).resets = s.resets := by
  unfold State.writeSrc; dsimp only; split <;> [split; skip] <;> rfl
@[simp] theorem State.writeSrc_draws (s : State) (i : Nat) (b : Byte) : (s.writeSrc i b).draws = s.draws := by
  unfold State.writeSrc; dsimp only; split <;> [split; skip] <;> rfl
@[simp] theorem State.writeSrc_src (s : State) (i : Nat) (b : Byte) :
    (s.writeSrc i b).src = s.src.write i b := by
  unfold State.writeSrc; dsimp only; split <;> [split; skip] <;> rfl

/-! ### State.passGap: everything but the inbox -/

@[simp] theorem State.passGap_phase (s : State) : s.passGap.phase = s.phase := by
  unfold State.passGap; split <;> rfl
@[simp] theorem State.passGap_ovr (s : State) : s.passGap.ovr = s.ovr := by
  unfold State.passGap; split <;> rfl
@[simp] theorem State.passGap_ill (s : State) : s.passGap.ill = s.ill := by
  unfold State.passGap; split <;> rfl
@[simp] theorem State.passGap_err (s : State) : s.passGap.err = s.err := by
  unfold State.passGap; split <;> rfl
@[simp] theorem State.passGap_ie (s : State) : s.passGap.ie = s.ie := by
  unfold State.passGap; split <;> rfl
@[simp] theorem State.passGap_width (s : State) : s.passGap.width = s.width := by
  unfold State.passGap; split <;> rfl
@[simp] theorem State.passGap_height (s : State) : s.passGap.height = s.height := by
  unfold State.passGap; split <;> rfl
@[simp] theorem State.passGap_srcLen (s : State) : s.passGap.srcLen = s.srcLen := by
  unfold State.passGap; split <;> rfl
@[simp] theorem State.passGap_outLen (s : State) : s.passGap.outLen = s.outLen := by
  unfold State.passGap; split <;> rfl
@[simp] theorem State.passGap_planes (s : State) : s.passGap.planes = s.planes := by
  unfold State.passGap; split <;> rfl
@[simp] theorem State.passGap_src (s : State) : s.passGap.src = s.src := by
  unfold State.passGap; split <;> rfl
@[simp] theorem State.passGap_dst (s : State) : s.passGap.dst = s.dst := by
  unfold State.passGap; split <;> rfl
@[simp] theorem State.passGap_caps (s : State) : s.passGap.caps = s.caps := by
  unfold State.passGap; split <;> rfl
@[simp] theorem State.passGap_replies (s : State) : s.passGap.replies = s.replies := by
  unfold State.passGap; split <;> rfl
@[simp] theorem State.passGap_raced (s : State) : s.passGap.raced = s.raced := by
  unfold State.passGap; split <;> rfl
@[simp] theorem State.passGap_resets (s : State) : s.passGap.resets = s.resets := by
  unfold State.passGap; split <;> rfl
@[simp] theorem State.passGap_draws (s : State) : s.passGap.draws = s.draws := by
  unfold State.passGap; split <;> rfl

/-! ### A command: the fields no command changes -/

@[simp] theorem State.cmdProcess_ie (s : State) : s.cmdProcess.ie = s.ie := by
  unfold State.cmdProcess; split <;> rfl
@[simp] theorem State.cmdProcess_width (s : State) : s.cmdProcess.width = s.width := by
  unfold State.cmdProcess; split <;> rfl
@[simp] theorem State.cmdProcess_height (s : State) : s.cmdProcess.height = s.height := by
  unfold State.cmdProcess; split <;> rfl
@[simp] theorem State.cmdProcess_srcLen (s : State) : s.cmdProcess.srcLen = s.srcLen := by
  unfold State.cmdProcess; split <;> rfl
@[simp] theorem State.cmdProcess_planes (s : State) : s.cmdProcess.planes = s.planes := by
  unfold State.cmdProcess; split <;> rfl
@[simp] theorem State.cmdProcess_src (s : State) : s.cmdProcess.src = s.src := by
  unfold State.cmdProcess; split <;> rfl
@[simp] theorem State.cmdProcess_dst (s : State) : s.cmdProcess.dst = s.dst := by
  unfold State.cmdProcess; split <;> rfl
@[simp] theorem State.cmdProcess_caps (s : State) : s.cmdProcess.caps = s.caps := by
  unfold State.cmdProcess; split <;> rfl
@[simp] theorem State.cmdProcess_inbox (s : State) : s.cmdProcess.inbox = s.inbox := by
  unfold State.cmdProcess; split <;> rfl
@[simp] theorem State.cmdProcess_replies (s : State) : s.cmdProcess.replies = s.replies := by
  unfold State.cmdProcess; split <;> rfl
@[simp] theorem State.cmdProcess_raced (s : State) : s.cmdProcess.raced = s.raced := by
  unfold State.cmdProcess; split <;> rfl
@[simp] theorem State.cmdProcess_resets (s : State) : s.cmdProcess.resets = s.resets := by
  unfold State.cmdProcess; split <;> rfl
@[simp] theorem State.cmdProcess_draws (s : State) : s.cmdProcess.draws = s.draws := by
  unfold State.cmdProcess; split <;> rfl
@[simp] theorem State.cmdAck_ie (s : State) : s.cmdAck.ie = s.ie := by
  unfold State.cmdAck; split <;> rfl
@[simp] theorem State.cmdAck_width (s : State) : s.cmdAck.width = s.width := by
  unfold State.cmdAck; split <;> rfl
@[simp] theorem State.cmdAck_height (s : State) : s.cmdAck.height = s.height := by
  unfold State.cmdAck; split <;> rfl
@[simp] theorem State.cmdAck_srcLen (s : State) : s.cmdAck.srcLen = s.srcLen := by
  unfold State.cmdAck; split <;> rfl
@[simp] theorem State.cmdAck_planes (s : State) : s.cmdAck.planes = s.planes := by
  unfold State.cmdAck; split <;> rfl
@[simp] theorem State.cmdAck_src (s : State) : s.cmdAck.src = s.src := by
  unfold State.cmdAck; split <;> rfl
@[simp] theorem State.cmdAck_dst (s : State) : s.cmdAck.dst = s.dst := by
  unfold State.cmdAck; split <;> rfl
@[simp] theorem State.cmdAck_caps (s : State) : s.cmdAck.caps = s.caps := by
  unfold State.cmdAck; split <;> rfl
@[simp] theorem State.cmdAck_inbox (s : State) : s.cmdAck.inbox = s.inbox := by
  unfold State.cmdAck; split <;> rfl
@[simp] theorem State.cmdAck_replies (s : State) : s.cmdAck.replies = s.replies := by
  unfold State.cmdAck; split <;> rfl
@[simp] theorem State.cmdAck_raced (s : State) : s.cmdAck.raced = s.raced := by
  unfold State.cmdAck; split <;> rfl
@[simp] theorem State.cmdAck_resets (s : State) : s.cmdAck.resets = s.resets := by
  unfold State.cmdAck; split <;> rfl
@[simp] theorem State.cmdAck_draws (s : State) : s.cmdAck.draws = s.draws := by
  unfold State.cmdAck; split <;> rfl
@[simp] theorem State.cmdWrite_ie (s : State) (v : Word) : (s.cmdWrite v).ie = s.ie := by
  unfold State.cmdWrite; repeat' split
  all_goals first | rfl | simp
@[simp] theorem State.cmdWrite_width (s : State) (v : Word) : (s.cmdWrite v).width = s.width := by
  unfold State.cmdWrite; repeat' split
  all_goals first | rfl | simp
@[simp] theorem State.cmdWrite_height (s : State) (v : Word) : (s.cmdWrite v).height = s.height := by
  unfold State.cmdWrite; repeat' split
  all_goals first | rfl | simp
@[simp] theorem State.cmdWrite_srcLen (s : State) (v : Word) : (s.cmdWrite v).srcLen = s.srcLen := by
  unfold State.cmdWrite; repeat' split
  all_goals first | rfl | simp
@[simp] theorem State.cmdWrite_planes (s : State) (v : Word) : (s.cmdWrite v).planes = s.planes := by
  unfold State.cmdWrite; repeat' split
  all_goals first | rfl | simp
@[simp] theorem State.cmdWrite_src (s : State) (v : Word) : (s.cmdWrite v).src = s.src := by
  unfold State.cmdWrite; repeat' split
  all_goals first | rfl | simp
@[simp] theorem State.cmdWrite_dst (s : State) (v : Word) : (s.cmdWrite v).dst = s.dst := by
  unfold State.cmdWrite; repeat' split
  all_goals first | rfl | simp
@[simp] theorem State.cmdWrite_caps (s : State) (v : Word) : (s.cmdWrite v).caps = s.caps := by
  unfold State.cmdWrite; repeat' split
  all_goals first | rfl | simp
@[simp] theorem State.cmdWrite_inbox (s : State) (v : Word) : (s.cmdWrite v).inbox = s.inbox := by
  unfold State.cmdWrite; repeat' split
  all_goals first | rfl | simp
@[simp] theorem State.cmdWrite_replies (s : State) (v : Word) : (s.cmdWrite v).replies = s.replies := by
  unfold State.cmdWrite; repeat' split
  all_goals first | rfl | simp
@[simp] theorem State.cmdWrite_raced (s : State) (v : Word) : (s.cmdWrite v).raced = s.raced := by
  unfold State.cmdWrite; repeat' split
  all_goals first | rfl | simp
@[simp] theorem State.cmdWrite_resets (s : State) (v : Word) : (s.cmdWrite v).resets = s.resets := by
  unfold State.cmdWrite; repeat' split
  all_goals first | rfl | simp
@[simp] theorem State.cmdWrite_draws (s : State) (v : Word) : (s.cmdWrite v).draws = s.draws := by
  unfold State.cmdWrite; repeat' split
  all_goals first | rfl | simp

end Sys2Proof.Machine
end

