-- ==== Sys2Proof/Laws/Ops.lean ====
section
/-! SUPPORT. What each shared operation can do, said once. -/

namespace Sys2Proof.Machine

/-- All a passed phase does (10_state.md R14). -/
theorem passPhase_next {s t : State} {p : Planes} {q : Phase} (h : s.passPhase p q = .next t) :
    s.pixels ≤ s.caps.maxPixels ∧ t = { s with planes := p, phase := q, draws := s.draws + 1 } := by
  unfold State.passPhase at h
  split at h
  · exact ⟨‹_›, (Host.Outcome.next.inj h).symm⟩
  · cases h

/-- A phase is passed where the frame fits the stores. -/
theorem passPhase_eq {s : State} (p : Planes) (q : Phase) (h : s.pixels ≤ s.caps.maxPixels) :
    s.passPhase p q = .next { s with planes := p, phase := q, draws := s.draws + 1 } :=
  if_pos h

/-- A passed phase never refuses. -/
theorem passPhase_not_refused {s : State} {p : Planes} {q : Phase} {r : Refusal} :
    s.passPhase p q ≠ .refused r := by
  unfold State.passPhase; split <;> simp

/-- The two answers of a PROCESS command (40_host_commands.md R87, R90). -/
theorem cmdProcess_cases (s : State) :
    (s.busy = true ∧ s.cmdProcess = s.setOvr) ∨ (s.busy = false ∧ s.cmdProcess = s.startCall) := by
  unfold State.cmdProcess
  cases h : s.busy <;> simp

/-- The two answers of an ACK command (40_host_commands.md R88, R90). -/
theorem cmdAck_cases (s : State) :
    (s.busy = true ∧ s.cmdAck = s.setOvr) ∨ (s.busy = false ∧ s.cmdAck = s.acknowledge) := by
  unfold State.cmdAck
  cases h : s.busy <;> simp

/-- The four answers of a CMD write (40_host_commands.md R85). -/
theorem cmdWrite_cases (s : State) (v : Word) :
    s.cmdWrite v = s.setIll ∨ s.cmdWrite v = s ∨ s.cmdWrite v = s.cmdProcess ∨
      s.cmdWrite v = s.cmdAck := by
  unfold State.cmdWrite State.cmdNop
  repeat' split
  all_goals simp

/-- What a register write can do (40_host_commands.md R81 to R90). -/
theorem writeReg_cases (s : State) (r : Reg) (v : Word) :
    s.writeReg r v = s ∨ s.writeReg r v = s.setIll ∨ s.writeReg r v = s.setOvr ∨
      s.writeReg r v = { s with ie := v.getLsbD 0 } ∨
      (s.busy = false ∧ (s.writeReg r v = { s with width := v } ∨
        s.writeReg r v = { s with height := v } ∨ s.writeReg r v = { s with srcLen := v } ∨
        s.writeReg r v = s.startCall ∨ s.writeReg r v = s.acknowledge)) := by
  cases r
  case cmd =>
    rcases cmdWrite_cases s v with h | h | h | h
    · simp [State.writeReg, h]
    · simp [State.writeReg, h]
    · rcases cmdProcess_cases s with ⟨hb, hp⟩ | ⟨hb, hp⟩ <;> simp [State.writeReg, h, hb, hp]
    · rcases cmdAck_cases s with ⟨hb, hp⟩ | ⟨hb, hp⟩ <;> simp [State.writeReg, h, hb, hp]
  all_goals simp [State.writeReg, State.opWrite]
  all_goals cases hb : s.busy <;> simp

/-- What a SRC write does beside the byte (20_memory.md R58): nothing, or the record of a raced byte,
or the loss of the plane stores. -/
theorem writeSrc_cases (s : State) (i : Nat) (b : Byte) :
    s.writeSrc i b = { s with src := s.src.write i b } ∨
    (s.busy = true ∧ i < s.pixels ∧ (s.phase = .validate ∨ s.phase = .extract) ∧
      s.writeSrc i b =
        { s with src := s.src.write i b, raced := (i, s.src.read i) :: s.raced }) ∨
    (s.busy = true ∧ i < s.pixels ∧ s.phase ≠ .validate ∧ s.phase ≠ .extract ∧
      s.writeSrc i b = { s with src := s.src.write i b, planes := Planes.empty }) := by
  unfold State.writeSrc
  dsimp only
  split
  · next h =>
    simp only [Bool.and_eq_true, decide_eq_true_eq] at h
    split
    · next hp => exact .inr (.inl ⟨h.1, h.2, hp, rfl⟩)
    · next hp =>
      rw [not_or] at hp
      exact .inr (.inr ⟨h.1, h.2, hp.1, hp.2, rfl⟩)
  · exact .inl rfl

/-- A luma byte the host did not overwrite in the call is what SRCRD would return (41_validate_extract.md
R104). -/
theorem lumaByte_of_not_raced {s : State} {i : Nat} (h : ∀ e ∈ s.raced, e.1 ≠ i) :
    s.lumaByte i = s.srcByte i := by
  have hf : s.raced.filter (fun e => e.1 = i) = [] :=
    List.filter_eq_nil_iff.2 fun e he => by simpa using h e he
  simp [State.lumaByte, olderBytes, hf]

/-- A luma byte the host overwrote once in the call is its old or its new value (20_memory.md R58). -/
theorem lumaByte_of_raced_once {s : State} {i : Nat} {old new : Byte}
    (h : s.raced = [(i, some old)]) (hn : s.src.read i = some new) :
    s.lumaByte i = old ∨ s.lumaByte i = new := by
  rcases Nat.mod_two_eq_zero_or_one (Config.raceChoice s.draws i) with hc | hc <;>
    simp [State.lumaByte, olderBytes, h, hn, hc]

/-- The four outcomes of VALIDATE's checks (41_validate_extract.md R100). -/
theorem validateError_cases (n : Nat) (w h l : Int) :
    ((w ≤ 0 ∨ h ≤ 0) ∧ validateError n w h l = some .invalidDimensions) ∨
    (0 < w ∧ 0 < h ∧ 2 * l < 3 * w * h ∧ validateError n w h l = some .bufferTooSmall) ∨
    (0 < w ∧ 0 < h ∧ 3 * w * h ≤ 2 * l ∧ n < w * h ∧
      validateError n w h l = some .allocationFailure) ∨
    (0 < w ∧ 0 < h ∧ 3 * w * h ≤ 2 * l ∧ w * h ≤ n ∧ validateError n w h l = none) := by
  unfold validateError
  by_cases h1 : w ≤ 0 ∨ h ≤ 0
  · exact .inl ⟨h1, if_pos h1⟩
  have hw : 0 < w := by omega
  have hh : 0 < h := by omega
  rw [if_neg h1]
  by_cases h2 : 2 * l < 3 * w * h
  · exact .inr (.inl ⟨hw, hh, h2, if_pos h2⟩)
  rw [if_neg h2]
  by_cases h3 : (n : Int) < w * h
  · exact .inr (.inr (.inl ⟨hw, hh, not_lt.1 h2, h3, if_pos h3⟩))
  · exact .inr (.inr (.inr ⟨hw, hh, not_lt.1 h2, not_lt.1 h3, if_neg h3⟩))

/-- A failing check is the failure entry (60_exceptions.md R166). -/
theorem execValidate_error {s : State} {e : ErrCode}
    (h : validateError s.caps.maxPixels s.wInt s.hInt s.len = some e) :
    execValidate s = .next (s.raise e) := by
  unfold execValidate; rw [h]

/-- Passing checks move PHASE to EXTRACT. -/
theorem execValidate_pass {s : State}
    (h : validateError s.caps.maxPixels s.wInt s.hInt s.len = none) :
    execValidate s = .next { s with phase := .extract } := by
  unfold execValidate; rw [h]

/-- The LUMA plane EXTRACT writes. -/
theorem execExtract_eq {s : State} (hs : s.pixels ≤ s.caps.srcCap)
    (hp : s.pixels ≤ s.caps.maxPixels) :
    execExtract s = .next { s with
      raced := [], phase := .gaussH, draws := s.draws + 1,
      planes := { s.planes with
        luma := grid s.h s.w fun r c => s.lumaByte (rowMajor s.w r c) } } := by
  unfold execExtract
  rw [if_pos hs]
  exact passPhase_eq (s := { s with raced := [] }) _ _ hp

/-- A byte the host wrote is what SRC holds (40_host_commands.md R92). -/
theorem srcByte_of_written {s : State} {i : Nat} {b : Byte} (h : s.src.read i = some b) :
    s.srcByte i = b := by
  rw [State.srcByte, h, Option.getD_some]

/-- What a SRC index holds depends on the bytes written and the resets only (20_memory.md R50, R59). -/
theorem srcByte_congr {s t : State} {i : Nat} (hr : t.resets = s.resets)
    (h : t.src.read i = s.src.read i) : t.srcByte i = s.srcByte i := by
  rw [State.srcByte, State.srcByte, hr, h]

/-- Inside the DONE window a read of DST finds the byte held (40_host_commands.md R93). -/
theorem dstByte_of_window {s : State} {i : Nat} {b : Byte} (hp : s.phase = .complete)
    (hi : i < s.outLen.toNat) (h : s.dst.read i = some b) : s.dstByte i = b := by
  simp [State.dstByte, State.done, hp, hi, h]

/-- The one shape of a step (logs 2, 10): the host's event, the engine's operation, or rest. -/
theorem step_cases (s : State) :
    (∃ a rest, s.inbox = a :: rest ∧ (a.gap = 0 ∨ s.busy = false) ∧
      step s = hostStep a.event { s with inbox := rest }) ∨
    (s.busy = true ∧ (∀ a rest, s.inbox = a :: rest → a.gap ≠ 0) ∧
      step s = engineStep s.passGap) ∨
    (s.busy = false ∧ s.inbox = [] ∧ step s = .next s) := by
  unfold step State.hostTurn
  cases hi : s.inbox with
  | nil => cases hb : s.busy <;> simp
  | cons a rest =>
    cases hb : s.busy <;> by_cases hg : a.gap = 0 <;> simp [hg]

end Sys2Proof.Machine
end

