-- ==== Sys2Proof/Laws/Planes.lean ====
section
/-! SUPPORT. Row-major planes, clamped indices, and the elements of a plane just written. -/

namespace Sys2Proof.Machine

variable {α : Type}

@[simp] theorem grid_length (h w : Nat) (f : Nat → Nat → α) : (grid h w f).length = h * w := by
  simp [grid]

/-- The index of a pixel lies in the plane (20_memory.md R45). -/
theorem rowMajor_lt {h w r c : Nat} (hr : r < h) (hc : c < w) : rowMajor w r c < h * w := by
  calc r * w + c < r * w + w := by omega
    _ = (r + 1) * w := by ring
    _ ≤ h * w := Nat.mul_le_mul_right w hr

theorem rowMajor_div {w r c : Nat} (hc : c < w) : rowMajor w r c / w = r := by
  unfold rowMajor
  rw [Nat.add_comm, Nat.add_mul_div_right _ _ (by omega), Nat.div_eq_of_lt hc, Nat.zero_add]

theorem rowMajor_mod {w r c : Nat} (hc : c < w) : rowMajor w r c % w = c := by
  unfold rowMajor
  rw [Nat.add_comm, Nat.add_mul_mod_self_right, Nat.mod_eq_of_lt hc]

/-- Element [r][c] of a plane. -/
theorem grid_getElem? {h w r c : Nat} (f : Nat → Nat → α) (hr : r < h) (hc : c < w) :
    (grid h w f)[rowMajor w r c]? = some (f r c) := by
  simp [grid, rowMajor_lt hr hc, rowMajor_div hc, rowMajor_mod hc]

@[simp] theorem planeAt_grid {h w r c : Nat} (f : Nat → Nat → α) (free : Nat → α) (hr : r < h)
    (hc : c < w) : planeAt (grid h w f) free w r c = f r c := by
  simp [planeAt, grid_getElem? f hr hc]

@[simp] theorem written_grid [Inhabited α] {h w r c : Nat} (f : Nat → Nat → α) (hr : r < h)
    (hc : c < w) : written w (grid h w f) r c = f r c := by
  simp [written, List.getD, grid_getElem? f hr hc]

/-- Every element of a plane is the value of some pixel. -/
theorem exists_of_mem_grid {h w : Nat} {f : Nat → Nat → α} {x : α} (hx : x ∈ grid h w f) :
    ∃ r c, r < h ∧ c < w ∧ f r c = x := by
  obtain ⟨i, hi, rfl⟩ := List.mem_map.1 hx
  have hi := List.mem_range.1 hi
  have hw : 0 < w := Nat.pos_of_ne_zero (by rintro rfl; simp at hi)
  exact ⟨i / w, i % w, Nat.div_lt_of_lt_mul (by rwa [Nat.mul_comm]), Nat.mod_lt _ hw, rfl⟩

/-- A plane depends on its function only at its pixels. -/
theorem grid_congr {h w : Nat} {f g : Nat → Nat → α}
    (hfg : ∀ r c, r < h → c < w → f r c = g r c) : grid h w f = grid h w g := by
  refine List.map_congr_left fun i hi => ?_
  have hi := List.mem_range.1 hi
  have hw : 0 < w := Nat.pos_of_ne_zero (by rintro rfl; simp at hi)
  exact hfg _ _ (Nat.div_lt_of_lt_mul (by rwa [Nat.mul_comm])) (Nat.mod_lt _ hw)

/-- A clamped index is an index (42_gaussian_fir.md R113). -/
theorem clampIdx_lt {n : Nat} (i : Int) (hn : 0 < n) : clampIdx i n < n := by
  unfold clampIdx; split
  · exact hn
  · split <;> omega

/-- An index inside is its own clamp. -/
@[simp] theorem clampIdx_inside {n i : Nat} (hi : i < n) : clampIdx (i : Int) n = i := by
  unfold clampIdx; split
  · omega
  · split <;> omega

end Sys2Proof.Machine
end

