-- ==== Sys2Proof/Laws/Pixels.lean ====
section
/-! SUPPORT. One lemma per pixel function of the filter and the detector: its value in plain
arithmetic. -/

namespace Sys2Proof.Machine

/-- The five taps written out (42_gaussian_fir.md R112). -/
theorem firSum_eq (v : Nat → Byte) (n i : Nat) :
    firSum v n i = 31 * (v (clampIdx ((i : Int) - 2) n)).toNat +
      60 * (v (clampIdx ((i : Int) - 1) n)).toNat + 74 * (v (clampIdx i n)).toNat +
      60 * (v (clampIdx ((i : Int) + 1) n)).toNat +
      31 * (v (clampIdx ((i : Int) + 2) n)).toNat := by
  simp only [firSum, List.range, List.range.loop, List.map, List.sum_cons, List.sum_nil,
    Config.tap, Config.taps, List.getD_cons_zero, List.getD_cons_succ]
  rw [show (i : Int) + ((0 : Nat) : Int) - 2 = i - 2 by omega,
    show (i : Int) + ((1 : Nat) : Int) - 2 = i - 1 by omega,
    show (i : Int) + ((2 : Nat) : Int) - 2 = i by omega,
    show (i : Int) + ((3 : Nat) : Int) - 2 = i + 1 by omega,
    show (i : Int) + ((4 : Nat) : Int) - 2 = i + 2 by omega]
  omega

/-- The sum never exceeds 65280 (42_gaussian_fir.md R112). -/
theorem firSum_le (v : Nat → Byte) (n i : Nat) : firSum v n i ≤ 65280 := by
  rw [firSum_eq]
  have h1 := (v (clampIdx ((i : Int) - 2) n)).isLt
  have h2 := (v (clampIdx ((i : Int) - 1) n)).isLt
  have h3 := (v (clampIdx (i : Int) n)).isLt
  have h4 := (v (clampIdx ((i : Int) + 1) n)).isLt
  have h5 := (v (clampIdx ((i : Int) + 2) n)).isLt
  omega

/-- A filter output depends only on samples inside the sequence. -/
theorem firAt_congr {u v : Nat → Byte} {n : Nat} (i : Nat) (hn : 0 < n)
    (h : ∀ j, j < n → u j = v j) : firAt u n i = firAt v n i := by
  unfold firAt firSum
  simp only [h _ (clampIdx_lt _ hn)]

/-- A clamped read depends only on pixels of the plane (43_canny.md R127). -/
theorem replicated_congr {h w : Nat} {p q : Nat → Nat → Byte} (hh : 0 < h) (hw : 0 < w)
    (hpq : ∀ r c, r < h → c < w → p r c = q r c) : replicated h w p = replicated h w q := by
  funext r c
  unfold replicated
  rw [hpq _ _ (clampIdx_lt r hh) (clampIdx_lt c hw)]

/-- A clamped read is a sample (43_canny.md R127). -/
theorem replicated_range (h w : Nat) (p : Nat → Nat → Byte) (r c : Int) :
    0 ≤ replicated h w p r c ∧ replicated h w p r c ≤ 255 := by
  unfold replicated
  have := (p (clampIdx r h) (clampIdx c w)).isLt
  omega

/-- gx fits s11 (43_canny.md R126). -/
theorem sobelX_range (h w : Nat) (p : Nat → Nat → Byte) (r c : Int) :
    -1020 ≤ sobelX (replicated h w p) r c ∧ sobelX (replicated h w p) r c ≤ 1020 := by
  unfold sobelX
  have h1 := replicated_range h w p (r - 1) (c + 1)
  have h2 := replicated_range h w p r (c + 1)
  have h3 := replicated_range h w p (r + 1) (c + 1)
  have h4 := replicated_range h w p (r - 1) (c - 1)
  have h5 := replicated_range h w p r (c - 1)
  have h6 := replicated_range h w p (r + 1) (c - 1)
  omega

/-- gy fits s11 (43_canny.md R126). -/
theorem sobelY_range (h w : Nat) (p : Nat → Nat → Byte) (r c : Int) :
    -1020 ≤ sobelY (replicated h w p) r c ∧ sobelY (replicated h w p) r c ≤ 1020 := by
  unfold sobelY
  have h1 := replicated_range h w p (r + 1) (c - 1)
  have h2 := replicated_range h w p (r + 1) c
  have h3 := replicated_range h w p (r + 1) (c + 1)
  have h4 := replicated_range h w p (r - 1) (c - 1)
  have h5 := replicated_range h w p (r - 1) c
  have h6 := replicated_range h w p (r - 1) (c + 1)
  omega

/-- A difference in range is stored in s11 without loss. -/
theorem toInt_ofInt_s11 {x : Int} (h1 : -1020 ≤ x) (h2 : x ≤ 1020) :
    (BitVec.ofInt 11 x).toInt = x := by
  rw [BitVec.toInt_ofInt]; simp [Int.bmod_def]; omega

/-- The magnitude outside the plane is 0, as one condition on the position (43_canny.md R132). -/
theorem magOutsideZero_eq (h w : Nat) (mag : Nat → Nat → Nat) (a b : Int) :
    magOutsideZero h w mag (a, b) =
      if 0 ≤ a ∧ a < h ∧ 0 ≤ b ∧ b < w then mag a.toNat b.toNat else 0 := by
  unfold magOutsideZero
  by_cases hp : 0 ≤ a ∧ a < h ∧ 0 ≤ b ∧ b < w
  · rw [if_pos hp, if_pos (by simp [inPlane, hp])]
  · rw [if_neg hp, if_neg]
    intro h'
    simp only [inPlane, Bool.and_eq_true, decide_eq_true_eq] at h'
    exact hp ⟨h'.1.1.1, h'.1.1.2, h'.1.2, h'.2⟩

/-- The class of a pixel under the spec's norm (43_canny.md R137). -/
theorem classOf_l1 (kept : Bool) (m : Nat) :
    classOf .l1 kept m =
      if kept = false then .none else if m < 50 then .none else if 150 < m then .strong
      else .weak := by
  cases kept <;> rfl

end Sys2Proof.Machine
end

