-- ==== Sys2Proof/Laws/Call.lean ====
section
/-! SUPPORT. What a proof about a whole call needs: runs taken one engine step at a time, elements of
a plane just written, and that a plane depends only on the elements inside the frame. -/

namespace Sys2Proof.Machine

/-! ### Runs -/

/-- A run whose first step is a next state is the run from that state. -/
theorem run_next (M : Host.Core) (k : Nat) {s t : M.State} (h : M.step s = .next t) :
    M.run (k + 1) s = M.run k t := by
  simp [Host.Core.run, h]

/-- FLATTEN where the frame fits DST (44_flatten.md R150, R151). -/
theorem execFlatten_eq {s : State} (h : s.pixels ≤ s.caps.maxPixels) :
    execFlatten s = .next { s with
      dst := s.dst.writeFrom 0 (edgeMap s.h s.w s.edgeAt), outLen := BitVec.ofNat 32 s.pixels,
      err := .none, phase := .complete, planes := Planes.empty, draws := s.draws + 1 } :=
  if_pos h

/-- A silent host and a running call: the step is the engine's. -/
theorem step_of_busy {s : State} (hb : s.busy = true) (hi : s.inbox = []) :
    step s = engineStep s := by
  rcases step_cases s with ⟨a, r, h, -⟩ | ⟨-, -, h⟩ | ⟨h, -⟩
  · rw [hi] at h; cases h
  · rw [h, State.passGap, hi]
  · rw [hb] at h; cases h

/-- A running call and a silent host: one engine step, then the rest of the run. -/
theorem run_of_busy (k : Nat) {s t : State} {o : Result} (hb : s.busy = true) (hi : s.inbox = [])
    (ht : engineStep s = .next t) (ho : Host.Core.run Sys2Proof.core k t = o) :
    Host.Core.run Sys2Proof.core (k + 1) s = o :=
  (run_next Sys2Proof.core k ((step_of_busy hb hi).trans ht)).trans ho

/-! ### Elements of a written plane -/

section
variable {α : Type}

/-- A whole plane holds every element: no free value is read from it. -/
theorem planeAt_of_whole [Inhabited α] {h w r c : Nat} {p : List α} (free : Nat → α)
    (hp : p.length = h * w) (hr : r < h) (hc : c < w) :
    planeAt p free w r c = written w p r c := by
  have := rowMajor_lt hr hc
  unfold planeAt written
  rw [List.getD_eq_getElem?_getD, List.getElem?_eq_getElem (by omega)]
  rfl

end

/-! ### A plane depends only on the elements inside the frame -/

section
variable {h w : Nat}

theorem hblurPlane_congr {p q : Nat → Nat → Byte}
    (hpq : ∀ r c, r < h → c < w → p r c = q r c) : hblurPlane h w p = hblurPlane h w q :=
  grid_congr fun r _ hr _ => firAt_congr _ (by omega) fun j hj => hpq r j hr hj

theorem blurPlane_congr {p q : Nat → Nat → Byte}
    (hpq : ∀ r c, r < h → c < w → p r c = q r c) : blurPlane h w p = blurPlane h w q :=
  grid_congr fun _ c _ hc => firAt_congr _ (by omega) fun j hj => hpq j c hj hc

theorem gxPlane_congr {p q : Nat → Nat → Byte}
    (hpq : ∀ r c, r < h → c < w → p r c = q r c) : gxPlane h w p = gxPlane h w q :=
  grid_congr fun _ _ _ _ => by rw [replicated_congr (by omega) (by omega) hpq]

theorem gyPlane_congr {p q : Nat → Nat → Byte}
    (hpq : ∀ r c, r < h → c < w → p r c = q r c) : gyPlane h w p = gyPlane h w q :=
  grid_congr fun _ _ _ _ => by rw [replicated_congr (by omega) (by omega) hpq]

theorem magPlane_congr {p q : Nat → Nat → Byte}
    (hpq : ∀ r c, r < h → c < w → p r c = q r c) : magPlane h w p = magPlane h w q :=
  grid_congr fun _ _ _ _ => by rw [replicated_congr (by omega) (by omega) hpq]

theorem magOutsideZero_congr {m m' : Nat → Nat → Nat}
    (hm : ∀ r c, r < h → c < w → m r c = m' r c) (p : Int × Int) :
    magOutsideZero h w m p = magOutsideZero h w m' p := by
  unfold magOutsideZero
  split
  · next hi =>
    simp only [inPlane, Bool.and_eq_true, decide_eq_true_eq] at hi
    exact hm _ _ (by omega) (by omega)
  · rfl

theorem nmskPlane_congr {x x' y y' : Nat → Nat → Int} {m m' : Nat → Nat → Nat}
    (hx : ∀ r c, r < h → c < w → x r c = x' r c) (hy : ∀ r c, r < h → c < w → y r c = y' r c)
    (hm : ∀ r c, r < h → c < w → m r c = m' r c) :
    nmskPlane h w x y m = nmskPlane h w x' y' m' :=
  grid_congr fun r c hr hc => by
    unfold isKept
    rw [hx r c hr hc, hy r c hr hc, hm r c hr hc, magOutsideZero_congr hm, magOutsideZero_congr hm]

theorem clsPlane_congr {k k' : Nat → Nat → Bool} {m m' : Nat → Nat → Nat}
    (hk : ∀ r c, r < h → c < w → k r c = k' r c) (hm : ∀ r c, r < h → c < w → m r c = m' r c) :
    clsPlane h w m k = clsPlane h w m' k' :=
  grid_congr fun r c hr hc => by rw [hk r c hr hc, hm r c hr hc]

theorem edgePlane_congr {k k' : Nat → Nat → Cls}
    (hk : ∀ r c, r < h → c < w → k r c = k' r c) : edgePlane h w k = edgePlane h w k' := by
  have hs : strongPixels h w k = strongPixels h w k' :=
    grid_congr fun r c hr hc => by rw [hk r c hr hc]
  have hsweep : ∀ e, hystSweep h w k e = hystSweep h w k' e :=
    fun e => grid_congr fun r c hr hc => by rw [hk r c hr hc]
  have hclose : ∀ n e, hystClose h w k n e = hystClose h w k' n e := by
    intro n
    induction n with
    | zero => exact fun _ => rfl
    | succ n ih => exact fun e => by simp only [hystClose, hsweep, ih]
  unfold edgePlane
  rw [hs, hclose]

theorem edgeMap_congr {k k' : Nat → Nat → Bool}
    (hk : ∀ r c, r < h → c < w → k r c = k' r c) : edgeMap h w k = edgeMap h w k' :=
  grid_congr fun r c hr hc => by rw [hk r c hr hc]

end

end Sys2Proof.Machine
end

