-- ==== Sys2Proof/Laws/Decode.lean ====
section
/-! SUPPORT. The decoder and the encoder: bytes of a word, offsets, command words, phase codes. -/

namespace Sys2Proof

/-- The bytes of a word make the word again. -/
theorem wordOfBytes_byteOfWord (v : Word) :
    wordOfBytes (byteOfWord v 0) (byteOfWord v 1) (byteOfWord v 2) (byteOfWord v 3) = v := by
  apply BitVec.eq_of_getLsbD_eq
  intro i hi
  simp only [wordOfBytes, byteOfWord, BitVec.getLsbD_append, BitVec.getLsbD_extractLsb']
  interval_cases i <;> simp

/-- The bytes of a word made of four bytes are those bytes. -/
theorem bytesOfWord_wordOfBytes (a b c d : Byte) :
    bytesOfWord (wordOfBytes a b c d) = [a, b, c, d] := by
  have h : ∀ x y : Byte, (∀ i < 8, x.getLsbD i = y.getLsbD i) → x = y :=
    fun x y hxy => BitVec.eq_of_getLsbD_eq fun i hi => hxy i hi
  have h0 : byteOfWord (wordOfBytes a b c d) 0 = a := h _ _ fun i hi => by
    simp only [wordOfBytes, byteOfWord, BitVec.getLsbD_append, BitVec.getLsbD_extractLsb']
    interval_cases i <;> simp
  have h1 : byteOfWord (wordOfBytes a b c d) 1 = b := h _ _ fun i hi => by
    simp only [wordOfBytes, byteOfWord, BitVec.getLsbD_append, BitVec.getLsbD_extractLsb']
    interval_cases i <;> simp
  have h2 : byteOfWord (wordOfBytes a b c d) 2 = c := h _ _ fun i hi => by
    simp only [wordOfBytes, byteOfWord, BitVec.getLsbD_append, BitVec.getLsbD_extractLsb']
    interval_cases i <;> simp
  have h3 : byteOfWord (wordOfBytes a b c d) 3 = d := h _ _ fun i hi => by
    simp only [wordOfBytes, byteOfWord, BitVec.getLsbD_append, BitVec.getLsbD_extractLsb']
    interval_cases i <;> simp
  simp [bytesOfWord, h0, h1, h2, h3]

@[simp] theorem decodeOffset_regOffset (r : Reg) : decodeOffset (regOffset r) = .ok r := by
  cases r <;> rfl

/-- An accepted offset is the offset of its register. -/
theorem regOffset_of_decodeOffset {o : Byte} {r : Reg} (h : decodeOffset o = .ok r) :
    regOffset r = o := by
  have all : ∀ o : Byte, ∀ r ∈ [Reg.cmd, .status, .err, .ctrl, .width, .height, .srcLen, .outLen,
      .cap, .thresh, .coef], decodeOffset o = .ok r → regOffset r = o := by decide +kernel
  exact all o r (by cases r <;> simp) h

/-- The offsets refused are the misaligned ones and those at 0x2C and above (20_memory.md R41). -/
theorem decodeOffset_refused {o : Byte} (h : o.toNat % 4 ≠ 0 ∨ 0x2C ≤ o.toNat) :
    decodeOffset o = .error .regMisaligned ∨ decodeOffset o = .error .regUnmapped := by
  revert o; decide +kernel

/-- The operation a write decodes to is encoded as that write. -/
theorem encode_decodeWrite (r : Reg) (v : Word) :
    encode (decodeWrite r v) = .port (writeTxn r v) := by
  cases r <;> try rfl
  unfold decodeWrite
  dsimp only
  by_cases h0 : v = 0
  · subst h0; rfl
  by_cases h1 : v = 1
  · subst h1; rfl
  by_cases h2 : v = 2
  · subst h2; rfl
  rw [if_neg h0, if_neg h1, if_neg h2]; rfl

/-- An accepted PHASE code is the code of its operation. -/
theorem encode_of_decodePhase {p : BitVec 4} {i : Instr} (h : decodePhase p = .ok i) :
    encode i = .phase p := by
  unfold decodePhase at h
  split at h
  all_goals cases h
  all_goals exact congrArg Encoding.phase (BitVec.eq_of_toNat_eq (by simp [*]))

end Sys2Proof
end

