-- ==== Sys2Proof/Laws/Hyst.lean ====
section
/-! SUPPORT. What one sweep of the hysteresis does, and the size of its planes. -/

namespace Sys2Proof.Machine

variable {h w : Nat}

/-- An element of a plane of truth values just computed. -/
theorem grid_getD {r c : Nat} (f : Nat → Nat → Bool) (hr : r < h) (hc : c < w) :
    (grid h w f).getD (rowMajor w r c) false = f r c := by
  rw [List.getD_eq_getElem?_getD, grid_getElem? f hr hc]
  rfl

/-- The eight offsets reach exactly the 8-neighbours (00_scope.md R8). -/
theorem hasEdgeNeighbour_iff (edge : List Bool) (r c : Nat) :
    hasEdgeNeighbour h w edge r c = true ↔
      ∃ r' c', r' < h ∧ c' < w ∧ Adjacent8 r c r' c' ∧
        edge.getD (rowMajor w r' c') false = true := by
  unfold hasEdgeNeighbour
  simp only [List.any_eq_true, Bool.and_eq_true, inPlane, decide_eq_true_eq]
  constructor
  · rintro ⟨⟨dr, dc⟩, hd, ⟨⟨⟨h1, h2⟩, h3⟩, h4⟩, h5⟩
    dsimp only at h1 h2 h3 h4 h5
    refine ⟨_, _, by omega, by omega, ?_, h5⟩
    simp only [offsets8, List.mem_cons, Prod.mk.injEq, List.not_mem_nil, or_false] at hd
    unfold Adjacent8
    omega
  · rintro ⟨r', c', h1, h2, ⟨h3, h4, h5, h6, h7⟩, h8⟩
    refine ⟨((r' : Int) - r, (c' : Int) - c), ?_, ?_⟩
    · have : (r' : Int) - r = -1 ∨ (r' : Int) - r = 0 ∨ (r' : Int) - r = 1 := by omega
      have : (c' : Int) - c = -1 ∨ (c' : Int) - c = 0 ∨ (c' : Int) - c = 1 := by omega
      simp only [offsets8, List.mem_cons, Prod.mk.injEq, List.not_mem_nil, or_false]
      omega
    · simp only [add_sub_cancel, Int.toNat_natCast]
      exact ⟨by omega, h8⟩

/-- What one sweep leaves at a pixel (43_canny.md R138). -/
theorem hystSweep_getD {cls : Nat → Nat → Cls} {edge : List Bool} {r c : Nat} (hr : r < h)
    (hc : c < w) :
    (hystSweep h w cls edge).getD (rowMajor w r c) false =
      (edge.getD (rowMajor w r c) false ||
        (decide (cls r c = .weak) && hasEdgeNeighbour h w edge r c)) :=
  grid_getD _ hr hc

@[simp] theorem length_strongPixels (cls : Nat → Nat → Cls) :
    (strongPixels h w cls).length = h * w := by simp [strongPixels]

@[simp] theorem length_hystSweep (cls : Nat → Nat → Cls) (edge : List Bool) :
    (hystSweep h w cls edge).length = h * w := by simp [hystSweep]

theorem length_hystClose (cls : Nat → Nat → Cls) (n : Nat) {edge : List Bool}
    (he : edge.length = h * w) : (hystClose h w cls n edge).length = h * w := by
  induction n generalizing edge with
  | zero => exact he
  | succ n ih =>
    unfold hystClose
    dsimp only
    split
    · exact he
    · exact ih (length_hystSweep cls edge)

/-- EDGE is a whole plane (43_canny.md R138). -/
@[simp] theorem length_edgePlane (cls : Nat → Nat → Cls) : (edgePlane h w cls).length = h * w :=
  length_hystClose _ _ (length_strongPixels _)

end Sys2Proof.Machine
end

