-- ==== Sys2Proof/Laws/Memory.lean ====
section
/-! SUPPORT. A buffer memory: read after write, and the canonical form kept by every operation. -/

namespace Sys2Proof.Machine

@[simp] theorem Memory.read_write_same (m : Memory) (a : Nat) (b : Byte) :
    (m.write a b).read a = some b := by
  induction m with
  | nil => simp [Memory.write, Memory.read]
  | cons e m ih =>
    obtain ⟨x, y⟩ := e
    by_cases h1 : a < x
    · simp [Memory.write, Memory.read, h1]
    · by_cases h2 : a = x
      · simp [Memory.write, Memory.read, h2]
      · simp [Memory.write, Memory.read, h1, h2, ih]

theorem Memory.read_write_other (m : Memory) {a i : Nat} (b : Byte) (h : i ≠ a) :
    (m.write a b).read i = m.read i := by
  induction m with
  | nil => simp [Memory.write, Memory.read, h]
  | cons e m ih =>
    obtain ⟨x, y⟩ := e
    by_cases h1 : a < x
    · simp [Memory.write, Memory.read, h1, h]
    · by_cases h2 : a = x
      · subst h2; simp [Memory.write, Memory.read, h]
      · simp [Memory.write, Memory.read, h1, h2, ih]

theorem Memory.mem_write {m : Memory} {a : Nat} {b : Byte} {e : Nat × Byte}
    (h : e ∈ m.write a b) : e = (a, b) ∨ e ∈ m := by
  induction m with
  | nil => simpa [Memory.write] using h
  | cons f m ih =>
    obtain ⟨x, y⟩ := f
    unfold Memory.write at h
    split at h
    · simpa using h
    · split at h
      · rcases List.mem_cons.1 h with h | h
        · exact .inl h
        · exact .inr (List.mem_cons_of_mem _ h)
      · rcases List.mem_cons.1 h with h | h
        · exact .inr (h ▸ List.mem_cons_self)
        · exact (ih h).imp_right (List.mem_cons_of_mem _)

/-- A memory is in canonical form when each index is below every index after it. -/
theorem Memory.wf_cons (x : Nat) (y : Byte) (m : Memory) :
    Memory.wf ((x, y) :: m) = true ↔ (∀ e ∈ m, x < e.1) ∧ m.wf = true := by
  induction m generalizing x y with
  | nil => simp [Memory.wf]
  | cons f m ih =>
    obtain ⟨a, b⟩ := f
    simp only [Memory.wf, Bool.and_eq_true, decide_eq_true_eq, List.mem_cons, forall_eq_or_imp]
    constructor
    · rintro ⟨hlt, hm⟩
      exact ⟨⟨hlt, fun e he => lt_trans hlt (((ih a b).1 hm).1 e he)⟩, hm⟩
    · rintro ⟨⟨hlt, -⟩, hm⟩
      exact ⟨hlt, hm⟩

theorem Memory.wf_write {m : Memory} (a : Nat) (b : Byte) (h : m.wf = true) :
    (m.write a b).wf = true := by
  induction m with
  | nil => simp [Memory.write, Memory.wf]
  | cons f m ih =>
    obtain ⟨x, y⟩ := f
    obtain ⟨hlt, hm⟩ := (Memory.wf_cons x y m).1 h
    unfold Memory.write
    split
    · next hax =>
      refine (Memory.wf_cons a b _).2 ⟨fun e he => ?_, h⟩
      rcases List.mem_cons.1 he with rfl | he
      · exact hax
      · exact lt_trans hax (hlt e he)
    · next hax =>
      split
      · next heq => exact (Memory.wf_cons a b m).2 ⟨heq ▸ hlt, hm⟩
      · next hne =>
        refine (Memory.wf_cons x y _).2 ⟨fun e he => ?_, ih hm⟩
        rcases Memory.mem_write he with rfl | he
        · simp only; omega
        · exact hlt e he

/-- What a sequence of writes leaves: the sequence where it was written, the rest as before. -/
theorem Memory.read_writeFrom (m : Memory) (a : Nat) (bs : List Byte) (i : Nat) :
    (m.writeFrom a bs).read i = if a ≤ i ∧ i < a + bs.length then bs[i - a]? else m.read i := by
  induction bs generalizing m a with
  | nil =>
    have h : ¬ (a ≤ i ∧ i < a + ([] : List Byte).length) := by simp only [List.length_nil]; omega
    rw [if_neg h]; rfl
  | cons b bs ih =>
    simp only [Memory.writeFrom, ih, List.length_cons]
    by_cases hi : i = a
    · subst hi; simp
    · rw [Memory.read_write_other m b hi]
      by_cases hr : a + 1 ≤ i ∧ i < a + 1 + bs.length
      · rw [if_pos hr, if_pos (by omega), show i - a = (i - (a + 1)) + 1 by omega]; rfl
      · rw [if_neg hr, if_neg (by omega)]

theorem Memory.wf_writeFrom {m : Memory} (a : Nat) (bs : List Byte) (h : m.wf = true) :
    (m.writeFrom a bs).wf = true := by
  induction bs generalizing m a with
  | nil => exact h
  | cons b bs ih => exact ih (a + 1) (Memory.wf_write a b h)

theorem Memory.mem_writeFrom {m : Memory} {a : Nat} {bs : List Byte} {e : Nat × Byte}
    (h : e ∈ m.writeFrom a bs) : e.1 < a + bs.length ∨ e ∈ m := by
  induction bs generalizing m a with
  | nil => exact .inr h
  | cons b bs ih =>
    rcases ih h with h | h
    · exact .inl (by simp only [List.length_cons]; omega)
    · rcases Memory.mem_write h with rfl | h
      · exact .inl (by simp)
      · exact .inr h

end Sys2Proof.Machine
end

