-- ==== Sys2Proof/Laws/PerInstr.lean ====
section
/-! SUPPORT. Statements about every operation as syntax, one lemma per constructor. -/

namespace Sys2Proof.Laws

/-- The encoding of an operation has the length its opcode-table row has, in whole bytes, and an engine
operation's code is one of 1 to 9 (30_encoding.md R60, R67). -/
def EncodingShape.Statement (i : Instr) : Prop :=
  match encode i with
  | .port t =>
    t.bytes.length = match t.select with
      | .regRead => 1
      | .regWrite => 5
      | .srcWrite => 5
      | .srcRead => 4
      | .dstRead => 4
      | .dstWrite => 0
  | .phase p => 1 ≤ p.toNat ∧ p.toNat ≤ 9

theorem EncodingShape.rd (r : Reg) : EncodingShape.Statement (.rd r) := rfl
theorem EncodingShape.wr (r : Reg) (v : Word) : EncodingShape.Statement (.wr r v) := rfl
theorem EncodingShape.srcwr (i : BitVec 32) (b : Byte) : EncodingShape.Statement (.srcwr i b) := rfl
theorem EncodingShape.srcrd (i : BitVec 32) : EncodingShape.Statement (.srcrd i) := rfl
theorem EncodingShape.dstrd (i : BitVec 32) : EncodingShape.Statement (.dstrd i) := rfl
theorem EncodingShape.nop : EncodingShape.Statement .nop := rfl
theorem EncodingShape.process : EncodingShape.Statement .process := rfl
theorem EncodingShape.ack : EncodingShape.Statement .ack := rfl
theorem EncodingShape.validate : EncodingShape.Statement .validate := by
  simp [EncodingShape.Statement, encode]
theorem EncodingShape.extract : EncodingShape.Statement .extract := by
  simp [EncodingShape.Statement, encode]
theorem EncodingShape.gaussH : EncodingShape.Statement .gaussH := by
  simp [EncodingShape.Statement, encode]
theorem EncodingShape.gaussV : EncodingShape.Statement .gaussV := by
  simp [EncodingShape.Statement, encode]
theorem EncodingShape.grad : EncodingShape.Statement .grad := by
  simp [EncodingShape.Statement, encode]
theorem EncodingShape.nms : EncodingShape.Statement .nms := by
  simp [EncodingShape.Statement, encode]
theorem EncodingShape.classify : EncodingShape.Statement .classify := by
  simp [EncodingShape.Statement, encode]
theorem EncodingShape.hyst : EncodingShape.Statement .hyst := by
  simp [EncodingShape.Statement, encode]
theorem EncodingShape.flatten : EncodingShape.Statement .flatten := by
  simp [EncodingShape.Statement, encode]

end Sys2Proof.Laws
end

