-- ==== Sys2Proof/Tests/Slice0.lean ====
section
/-! SUPPORT. Tests: ill-formed terms refused, words written out from the spec's encodings, the spec's
vectors (spec/95_test_vectors.md, derived there from the rules), and for each obligation with
hypotheses a concrete state and operands that meet them. -/

namespace Sys2Proof.Tests

open Sys2Proof Sys2Proof.Machine

/-! ### Helpers -/

/-- The next state, if that is the outcome. -/
def nextOf (o : Result) : Option State :=
  match o with
  | .next s => some s
  | .fault _ => none
  | .refused _ => none

/-- The fault, if that is the outcome. -/
def faultOf (o : Result) : Option Fault :=
  match o with
  | .next _ => none
  | .fault f => some f
  | .refused _ => none

/-- The refusal, if that is the outcome. -/
def refusalOf (o : Result) : Option Refusal :=
  match o with
  | .next _ => none
  | .fault _ => none
  | .refused r => some r

/-- The word a decoder answers, or none. -/
def accepted (e : Encoding) : Option Instr :=
  match decode e with
  | .ok i => some i
  | .error _ => none

/-- The reason a decoder refuses, or none. -/
def rejected (e : Encoding) : Option DecodeError :=
  match decode e with
  | .ok _ => none
  | .error r => some r

/-- The word a register reads as after an instruction. -/
def wordAfter (i : Instr) (r : Reg) (s : State) : Option Word :=
  (nextOf (exec i s)).map fun t => t.readReg r

/-- A 2 by 2 frame in SRC (V-E2E-4's luma), PHASE as given. -/
def small (q : Phase) : State :=
  { State.reset with
    phase := q, width := 2, height := 2, srcLen := 6,
    src := [(0, 0), (1, 255), (2, 0), (3, 255), (4, 7), (5, 7)] }

/-- The same frame after its call: V-E2E-4's EdgeMap in DST. -/
def finished : State :=
  { small .complete with outLen := 4, dst := [(0, 255), (1, 0), (2, 255), (3, 0)] }

/-- The operands of V-VAL vectors in VALIDATE. -/
def checking (w h l : Word) : State :=
  { State.reset with phase := .validate, width := w, height := h, srcLen := l }

/-- ERR and PHASE after VALIDATE. -/
def verdict (w h l : Word) : Option (ErrCode × Phase) :=
  (nextOf (exec .validate (checking w h l))).map fun t => (t.err, t.phase)

/-- The state with one host event due. -/
def due (e : HostEvent) (s : State) : State := { s with inbox := [{ gap := 0, event := e }] }

/-- The access of `RD r`. -/
def readTxn (o : Byte) : Txn := { select := .regRead, size := 4, bytes := [o] }

/-- A frame of one row, its elements given. -/
def oneRow {α : Type} (l : List α) (d : α) (_ c : Nat) : α := l.getD c d

/-! ### WellFormed: one ill-formed term for each check -/

theorem test_ill_formed_wr_command_word :
    Instr.wellFormed Config.resetCaps (.wr .cmd 1) = false ∧
      Instr.wellFormed Config.resetCaps (.wr .cmd 3) = true := by decide

theorem test_ill_formed_srcwr : Instr.wellFormed Config.resetCaps (.srcwr 6144 0) = false ∧
    Instr.wellFormed Config.resetCaps (.srcwr 6143 0) = true := by decide

theorem test_ill_formed_srcrd : Instr.wellFormed Config.resetCaps (.srcrd 6144) = false ∧
    Instr.wellFormed Config.resetCaps (.srcrd 6143) = true := by decide

theorem test_ill_formed_dstrd : Instr.wellFormed Config.resetCaps (.dstrd 4096) = false ∧
    Instr.wellFormed Config.resetCaps (.dstrd 4095) = true := by decide

/-! ### Decoding: words written out from 30_encoding.md R61, R62, R67 and the table's patterns -/

theorem test_decode_rd : accepted (.port ⟨.regRead, 4, [0b00100100]⟩) = some (.rd .thresh) := by
  decide

theorem test_decode_wr :
    accepted (.port ⟨.regWrite, 4, [0x98, 0x3A, 0x00, 0x00, 0b00011000]⟩) =
      some (.wr .srcLen 15000) := by decide

theorem test_decode_srcwr :
    accepted (.port ⟨.srcWrite, 1, [0xAB, 0x78, 0x56, 0x34, 0x12]⟩) =
      some (.srcwr 0x12345678 0xAB) := by decide

theorem test_decode_srcrd :
    accepted (.port ⟨.srcRead, 1, [0x78, 0x56, 0x34, 0x12]⟩) = some (.srcrd 0x12345678) := by decide

theorem test_decode_dstrd :
    accepted (.port ⟨.dstRead, 1, [0x00, 0x01, 0x00, 0x80]⟩) = some (.dstrd 0x80000100) := by decide

theorem test_decode_nop : accepted (.port ⟨.regWrite, 4, [0, 0, 0, 0, 0]⟩) = some .nop := by decide
theorem test_decode_process :
    accepted (.port ⟨.regWrite, 4, [1, 0, 0, 0, 0]⟩) = some .process := by decide
theorem test_decode_ack : accepted (.port ⟨.regWrite, 4, [2, 0, 0, 0, 0]⟩) = some .ack := by decide
theorem test_decode_validate : accepted (.phase 0b0001) = some .validate := by decide
theorem test_decode_extract : accepted (.phase 0b0010) = some .extract := by decide
theorem test_decode_gaussH : accepted (.phase 0b0011) = some .gaussH := by decide
theorem test_decode_gaussV : accepted (.phase 0b0100) = some .gaussV := by decide
theorem test_decode_grad : accepted (.phase 0b0101) = some .grad := by decide
theorem test_decode_nms : accepted (.phase 0b0110) = some .nms := by decide
theorem test_decode_classify : accepted (.phase 0b0111) = some .classify := by decide
theorem test_decode_hyst : accepted (.phase 0b1000) = some .hyst := by decide
theorem test_decode_flatten : accepted (.phase 0b1001) = some .flatten := by decide

/-- The refusals of 60_exceptions.md R173, and the PHASE codes without an operation. -/
theorem test_decode_rejects :
    rejected (.port ⟨.regRead, 2, [0x04]⟩) = some .regNotWord ∧
    rejected (.port ⟨.regRead, 4, [0x06]⟩) = some .regMisaligned ∧
    rejected (.port ⟨.regRead, 4, [0x2C]⟩) = some .regUnmapped ∧
    rejected (.port ⟨.srcRead, 4, [0, 0, 0, 0]⟩) = some .bufferNotByte ∧
    rejected (.port ⟨.dstWrite, 1, [0, 0, 0, 0, 0]⟩) = some .dstWrite ∧
    rejected (.port ⟨.regRead, 4, []⟩) = some .badPayload ∧
    rejected (.phase 0) = some .restingPhase ∧ rejected (.phase 15) = some .restingPhase := by decide

theorem test_table_words :
    decodeTableWord 8 0x28 = some (.rd .coef) ∧ decodeTableWord 40 0x1400000063 = some (.wr .height 99) ∧
    decodeTableWord 40 0x0000000509 = some (.srcwr 5 9) ∧ decodeTableWord 32 2 = some .ack ∧
    decodeTableWord 32 5 = some (.srcrd 5) ∧ decodeTableWord 8 9 = some .flatten := by decide

/-! ### Host operations: V-HOST vectors -/

/-- V-HOST-1, 3, 4, 5, 6. -/
theorem test_rd_after_reset :
    State.reset.readReg .status = 0 ∧ State.reset.readReg .cap = 0x00001000 ∧
    State.reset.readReg .thresh = 0x00960032 ∧ State.reset.readReg .coef = 0x081F3C4A ∧
    State.reset.readReg .cmd = 0 := by decide

/-- The value RD returns reaches the host. -/
theorem test_rd_replies :
    (nextOf (exec (.rd .thresh) State.reset)).map (·.replies) = some [.word 0x00960032] := by decide

/-- V-HOST-7, 9, 10, 11. -/
theorem test_wr_registers :
    wordAfter (.wr .thresh 0x12345678) .thresh State.reset = some 0x00960032 ∧
    wordAfter (.wr .ctrl 0xFFFFFFFE) .ctrl State.reset = some 0 ∧
    wordAfter (.wr .ctrl 3) .ctrl State.reset = some 1 ∧
    wordAfter (.wr .width 0xFFFFFFFF) .width State.reset = some 0xFFFFFFFF := by decide

/-- V-HOST-13, 21, 24, 25: a reserved command; writes while in GRAD. -/
theorem test_wr_flags :
    wordAfter (.wr .cmd 0x11) .status State.reset = some 0x10 ∧
    wordAfter (.wr .width 99) .status (small .grad) = some 0x509 ∧
    wordAfter (.wr .width 99) .width (small .grad) = some 2 ∧
    wordAfter (.wr .cmd 7) .status { small .grad with ovr := true } = some 0x519 ∧
    wordAfter (.wr .ctrl 1) .status (small .grad) = some 0x501 := by decide

/-- V-HOST-14 and V-HOST-20. -/
theorem test_nop : wordAfter .nop .status { State.reset with ill := true } = some 0x10 ∧
    wordAfter .nop .status (small .grad) = some 0x501 := by decide

/-- V-HOST-18 (accepted in FAILED) and V-HOST-22. -/
theorem test_process : wordAfter .process .status (small .failed) = some 0x101 ∧
    wordAfter .process .status (small .grad) = some 0x509 := by decide

/-- V-HOST-15, V-HOST-23 and V-HOST-27. -/
theorem test_ack : wordAfter .ack .status { State.reset with ill := true } = some 0 ∧
    wordAfter .ack .status (small .grad) = some 0x509 ∧
    wordAfter .ack .status { finished with ovr := true, ill := true } = some 0 := by decide

/-- V-HOST-17: the line falls with IE, STATUS stays. -/
theorem test_irq_follows_ie :
    ({ small .failed with ie := true, err := .invalidDimensions } : State).irq = true ∧
    (nextOf (exec (.wr .ctrl 0) { small .failed with ie := true })).map State.irq = some false ∧
    wordAfter (.wr .ctrl 0) .status { small .failed with ie := true } = some 0xB04 := by decide

/-- 40_host_commands.md R91: the byte is stored; R58: a luma byte while BUSY is remembered. -/
theorem test_srcwr :
    ((nextOf (exec (.srcwr 6 9) (small .idle))).bind fun t => t.src.read 6) = some 9 ∧
    (nextOf (exec (.srcwr 1 9) (small .validate))).map (·.raced) = some [(1, some 255)] := by decide

theorem test_srcrd :
    (nextOf (exec (.srcrd 1) (small .grad))).map (·.replies) = some [.byte 255] ∧
    refusalOf (exec (.srcrd 6144) (small .idle)) = some .srcOutOfRange := by decide

/-- 20_memory.md R50 and R59: a read of a byte never written gives the same byte whatever was returned or
run before, and changes nothing else. -/
theorem test_srcrd_unwritten :
    exec (.srcrd 9) State.reset =
      .next { State.reset with replies := [.byte (Config.freeSrc 0 9)] } ∧
    exec (.srcrd 9) { State.reset with replies := [.byte 3], draws := 4 } =
      .next { State.reset with replies := [.byte (Config.freeSrc 0 9), .byte 3], draws := 4 } :=
  ⟨by rfl, by rfl⟩

theorem test_dstrd : (nextOf (exec (.dstrd 2) finished)).map (·.replies) = some [.byte 255] ∧
    refusalOf (exec (.dstrd 4096) finished) = some .dstOutOfRange := by decide

/-! ### VALIDATE and EXTRACT: V-VAL and V-EXT vectors -/

/-- V-VAL-2, 4, 7, 8, 8b, 10, 11. -/
theorem test_validate_small :
    verdict 4 0xFFFFFFFF 100 = some (.invalidDimensions, .failed) ∧
    verdict 4 4 16 = some (.bufferTooSmall, .failed) ∧
    verdict 3 3 12 = some (.bufferTooSmall, .failed) ∧
    verdict 3 3 13 = some (.bufferTooSmall, .failed) ∧
    verdict 3 3 14 = some (.none, .extract) ∧
    verdict 0 4 0 = some (.invalidDimensions, .failed) ∧
    verdict 100 100 100 = some (.bufferTooSmall, .failed) := by decide

/-- V-VAL-12, 13, 14, 15, 16. -/
theorem test_validate_large :
    verdict 100 100 15000 = some (.allocationFailure, .failed) ∧
    verdict 64 64 6144 = some (.none, .extract) ∧
    verdict 65 64 6240 = some (.allocationFailure, .failed) ∧
    verdict 2147483647 2147483647 4294967295 = some (.bufferTooSmall, .failed) ∧
    verdict 0x80000000 1 5 = some (.invalidDimensions, .failed) := by decide

/-- V-EXT-1, on the luma of V-E2E-4. -/
theorem test_extract :
    (nextOf (exec .extract (small .extract))).map (·.planes.luma) = some [0, 255, 0, 255] := by decide

/-! ### The filter: V-FIR and V-GAUSS vectors -/

/-- V-FIR-2, 5, 6. -/
theorem test_fir_borders : fir1d [255, 0, 0, 0, 0, 0] = [164, 91, 31, 0, 0, 0] ∧
    fir1d [0, 255] = [91, 164] ∧ fir1d [10, 20, 30] = [15, 20, 25] := by decide

/-- V-FIR-1, 10, 12. -/
theorem test_fir_rounding : fir1d [0, 0, 0, 0, 255, 0, 0, 0, 0] = [0, 0, 31, 60, 74, 60, 31, 0, 0] ∧
    fir1d [0, 0, 0, 4, 0, 0, 0] = [0, 0, 1, 1, 1, 0, 0] ∧
    fir1d [255, 255, 255, 255, 255] = [255, 255, 255, 255, 255] := by decide

/-- V-GAUSS-2: HBLUR of the 2 by 2 checkerboard. -/
theorem test_gaussH :
    (nextOf (exec .gaussH { small .gaussH with
      planes := { Planes.empty with luma := [0, 255, 255, 0] } })).map (·.planes.hblur) =
      some [91, 164, 164, 91] := by decide

/-- V-GAUSS-2: BLUR of the same. -/
theorem test_gaussV :
    (nextOf (exec .gaussV { small .gaussV with
      planes := { Planes.empty with hblur := [91, 164, 164, 91] } })).map (·.planes.blur) =
      some [117, 138, 138, 117] := by decide

/-! ### The detector: V-DIR, V-NMS, V-CLS, V-HYST and V-E2E vectors -/

/-- V-E2E-3: GX, GY and MAG of BLUR [[117, 138], [138, 117]]. -/
theorem test_grad :
    (nextOf (exec .grad { small .grad with
      planes := { Planes.empty with blur := [117, 138, 138, 117] } })).map
        (fun t => (t.planes.gx.map (·.toInt), t.planes.gy.map (·.toInt), t.planes.mag)) =
      some ([42, 42, -42, -42], [42, -42, 42, -42], [84, 84, 84, 84]) := by decide

/-- V-DIR-2. -/
theorem test_direction :
    [((100 : Int), (41 : Int)), (100, 42), (100, 241), (100, 242), (3, 1), (1, 2), (1020, 1020), (0, 0),
      (-5, 0), (0, -7), (-100, 100), (-100, -100)].map (fun p => direction p.1 p.2) =
    [.row, .mainDiag, .mainDiag, .column, .row, .mainDiag, .mainDiag, .mainDiag, .row, .column,
      .antiDiag, .mainDiag] := by decide

/-- V-NMS-2: the row with two equal maxima, and the plateau. -/
theorem test_nms_ties :
    nmskPlane 1 8 (fun _ _ => 1) (fun _ _ => 0) (oneRow [0, 124, 364, 532, 532, 364, 124, 0] 0) =
      [false, false, false, true, false, false, false, false] ∧
    nmskPlane 1 5 (fun _ _ => 1) (fun _ _ => 0) (oneRow [10, 50, 50, 50, 10] 0) =
      [false, true, false, false, false] := by decide

/-- V-E2E-3: NMSK from its GX, GY and MAG. -/
theorem test_nms :
    (nextOf (exec .nms { small .nms with
      planes := { Planes.empty with
        gx := [42, 42, -42, -42], gy := [42, -42, 42, -42], mag := [84, 84, 84, 84] } })).map
        (·.planes.nmsk) = some [true, true, false, false] := by decide

/-- V-CLS-2. -/
theorem test_class_boundaries :
    [49, 50, 150, 151, 2040].map (classOf .l1 true) = [.none, .weak, .weak, .strong, .strong] ∧
    classOf .l1 false 2040 = .none := by decide

/-- V-E2E-3: two weak pixels. -/
theorem test_classify :
    (nextOf (exec .classify { small .classify with
      planes := { Planes.empty with
        mag := [84, 84, 84, 84], nmsk := [true, true, false, false] } })).map (·.planes.cls) =
      some [.weak, .weak, .none, .none] := by decide

/-- V-HYST-4 and V-HYST-5. -/
theorem test_hyst_rows :
    edgePlane 1 3 (oneRow [.strong, .none, .weak] .none) = [true, false, false] ∧
    edgePlane 1 6 (oneRow [.strong, .weak, .weak, .weak, .none, .weak] .none) =
      [true, true, true, true, false, false] ∧
    edgePlane 1 4 (oneRow [.weak, .none, .none, .strong] .none) = [false, false, false, true] := by
  decide

/-- A diagonal neighbour carries the edge (00_scope.md R8, as in V-HYST-2). -/
theorem test_hyst :
    (nextOf (exec .hyst { small .hyst with
      planes := { Planes.empty with cls := [.weak, .none, .none, .strong] } })).map (·.planes.edge) =
      some [true, false, false, true] := by decide

/-- FLATTEN of V-E2E-4's EDGE: DST, OUT_LEN and STATUS. -/
theorem test_flatten :
    (nextOf (exec .flatten { small .flatten with
      planes := { Planes.empty with edge := [true, false, true, false] } })).map
        (fun t => (t.dst, t.outLen, t.statusWord)) =
      some ([(0, 255), (1, 0), (2, 255), (3, 0)], 4, 0xA02) := by decide

/-- V-E2E-3 and V-E2E-4: the phase rules composed. -/
theorem test_edge_map_two_by_two :
    edgeMapOf 2 2 (fun r c => [0, 255, 255, 0].getD (2 * r + c) 0) = [0, 0, 0, 0] ∧
    edgeMapOf 2 2 (fun r c => [0, 255, 0, 255].getD (2 * r + c) 0) = [255, 0, 255, 0] := by
  decide +kernel

/-- V-E2E-5: the EdgeMap of V-GAUSS-3's luma. -/
theorem test_edge_map_five_by_four :
    edgeMapOf 4 5 (fun r c => [10, 10, 200, 200, 200, 10, 10, 200, 200, 200, 10, 10, 10, 200, 200,
      10, 10, 10, 10, 200].getD (5 * r + c) 0) =
    [0, 0, 255, 0, 0, 0, 0, 255, 0, 0, 0, 0, 255, 255, 0, 0, 0, 0, 255, 255] := by decide +kernel

/-! ### The step -/

/-- 10_state.md R27: a PROCESS access is the block's next step, and the engine then validates. -/
theorem test_step_process_then_validate :
    (nextOf (step (due (.access (writeTxn .cmd 1)) State.reset))).map (·.phase) = some .validate ∧
    (nextOf (step (checking 0 0 0))).map (·.statusWord) = some 0xB04 := by decide

/-- The opcode table's words run as the first operation after reset. -/
theorem test_step_table_words :
    (nextOf (step (State.reset.withFetchWord 40 0x0C00000001))).map (·.ie) = some true ∧
    (nextOf (step (State.reset.withFetchWord 8 9))).map (·.phase) = some .complete := by decide

/-! ### States that meet the hypotheses of the obligations -/

theorem test_witness_DecodeOfEncodeIsTheInstruction :
    Instr.wellFormed Config.resetCaps (.wr .cmd 3) = true ∧
    Instr.wellFormed Config.resetCaps (.dstrd 4095) = true ∧
    Instr.wellFormed Config.resetCaps .hyst = true := by decide

theorem test_witness_EveryAcceptedEncodingIsExact :
    decode (.port (readTxn 0x04)) = .ok (.rd .status) ∧ decode (.phase 8) = .ok .hyst := ⟨rfl, rfl⟩

theorem test_witness_RefusedAccessesHaveNoStep :
    (due (.access ⟨.regWrite, 2, [1, 0, 0, 0, 0]⟩) State.reset).inbox =
      [⟨0, .access ⟨.regWrite, 2, [1, 0, 0, 0, 0]⟩⟩] ∧
    (0x2A : Byte).toNat % 4 ≠ 0 ∧ 0x2C ≤ (0x2C : Byte).toNat ∧
    State.reset.caps.srcCap ≤ (6144 : BitVec 32).toNat ∧
    decode (.port ⟨.srcRead, 1, [0x00, 0x18, 0, 0]⟩) = .ok (.srcrd 6144) ∧
    decode (.port ⟨.srcWrite, 1, [9, 0x00, 0x18, 0, 0]⟩) = .ok (.srcwr 6144 9) ∧
    State.reset.caps.maxPixels ≤ (4096 : BitVec 32).toNat ∧
    decode (.port ⟨.dstRead, 1, [0x00, 0x10, 0, 0]⟩) = .ok (.dstrd 4096) :=
  ⟨rfl, by decide, by decide, by decide, rfl, rfl, by decide, rfl⟩

theorem test_witness_StepRunsTheDecodedAccess :
    (due (.access (writeTxn .cmd 2)) (small .grad)).inbox = [⟨0, .access (writeTxn .cmd 2)⟩] ∧
    decode (.port (writeTxn .cmd 2)) = .ok .ack ∧
    ({ small .idle with inbox := [⟨3, .access (writeTxn .cmd 2)⟩] } : State).busy = false :=
  ⟨rfl, rfl, rfl⟩

theorem test_witness_StepRunsThePhaseOperation :
    decode (.phase (phaseCode (small .flatten).phase)) = .ok .flatten ∧ (small .flatten).inbox = [] ∧
    ({ small .flatten with inbox := [⟨0 + 1, .reset⟩] } : State).inbox = [⟨0 + 1, .reset⟩] :=
  ⟨rfl, rfl, rfl⟩

theorem test_witness_RestingBlockStaysAsItIs :
    (small .failed).phase = .failed ∧ (small .failed).inbox = [] := ⟨rfl, rfl⟩

/-- A step that succeeds: the hypothesis of the statements about any next state. -/
theorem test_witness_PhaseFollowsItsTable :
    step (small .validate) = .next { small .validate with phase := .extract } := by rfl

theorem test_witness_EngineLeavesTheHostsStateAlone :
    step (small .validate) = .next { small .validate with phase := .extract } ∧
    (small .validate).busy = true ∧ (small .validate).inbox = [] ∧ Phase.validate ≠ .flatten :=
  ⟨by rfl, rfl, rfl, by decide⟩

theorem test_witness_RegisterReadsReturnTheirWords :
    State.reset.caps.Wf ∧ (readTxn 0x2C).select = .regRead ∧ (readTxn 0x2C).bytes = [0x2C] ∧
    0x28 < (0x2C : Byte).toNat ∧ (0x27 : Byte).toNat % 4 ≠ 0 := by decide

theorem test_witness_ReadOnlyWritesChangeNothing :
    Reg.coef ∈ [Reg.status, .err, .outLen, .cap, .thresh, .coef] := by decide

theorem test_witness_OperandWriteStoresOrFlags :
    (small .complete).phase = .complete ∧ (small .flatten).busy = true ∧
    Reg.srcLen ∈ [Reg.width, .height, .srcLen] := by decide

theorem test_witness_CmdWriteDecodesInOrder :
    3 ≤ (3 : Word).toNat ∧ (0 : Word).toNat = 0 ∧ (1 : Word).toNat = 1 ∧ (2 : Word).toNat = 2 ∧
    (small .validate).busy = true ∧ (small .complete).busy = false := by decide

theorem test_witness_ProcessStartsOrIsDropped :
    (small .idle).phase = .idle ∧ (small .validate).busy = true := by decide

theorem test_witness_AckReleasesOrIsDropped :
    (small .failed).phase = .failed ∧ (small .flatten).busy = true := by decide

theorem test_witness_IrqIsEnabledEndOfCall : finished.phase = .complete := rfl

theorem test_witness_StickyFlagsClearedOnlyByAckOrReset :
    (nextOf (step (due (.access (writeTxn .cmd 2)) { finished with ovr := true, ill := true }))).map
      (fun t => (t.ovr, t.ill)) = some (false, false) := by decide

theorem test_witness_SrcWriteStoresOneByte :
    (small .idle).caps.srcCap ≤ (6144 : BitVec 32).toNat ∧
    (6143 : BitVec 32).toNat < (small .idle).caps.srcCap ∧ (small .idle).busy = false ∧
    (small .grad).pixels ≤ (4 : BitVec 32).toNat := by decide

theorem test_witness_RacedLumaByteIsOldOrNew :
    (small .extract).phase = .extract ∧ (small .extract).raced = [] ∧
    (small .extract).pixels ≤ (small .extract).caps.maxPixels ∧
    (small .extract).pixels ≤ (small .extract).caps.srcCap ∧ 1 < (small .extract).h ∧
    1 < (small .extract).w ∧ (3 : BitVec 32).toNat = 1 * (small .extract).w + 1 ∧
    (small .extract).src.read (3 : BitVec 32).toNat = some 255 := by decide

theorem test_witness_SrcReadReturnsTheByte :
    (small .idle).caps.srcCap ≤ (6144 : BitVec 32).toNat ∧
    (5 : BitVec 32).toNat < (small .idle).caps.srcCap ∧ (small .idle).src.read 5 = some 7 ∧
    (small .grad).caps = (small .idle).caps ∧ (small .grad).resets = (small .idle).resets ∧
    (small .grad).src.read 5 = (small .idle).src.read 5 ∧
    (6143 : BitVec 32).toNat < (small .idle).caps.srcCap ∧ (small .idle).src.read 6143 = none := by
  decide

theorem test_witness_DstReadReturnsTheEdgeByteWhenDone :
    finished.caps.maxPixels ≤ (4096 : BitVec 32).toNat ∧
    (3 : BitVec 32).toNat < finished.caps.maxPixels ∧ finished.phase = .complete ∧
    (3 : BitVec 32).toNat < finished.outLen.toNat ∧ finished.dst.read 3 = some 0 ∧
    finished.outLen.toNat ≤ (4 : BitVec 32).toNat ∧ (small .idle).phase ≠ .complete := by decide

/-- The invariant holds of a finished call. -/
theorem test_inv_finished : finished.Inv := by
  constructor <;> first
    | decide
    | exact .inl rfl

/-- The invariant holds of a call about to be validated. -/
theorem test_inv_validate : (small .validate).Inv := by
  constructor <;> first
    | decide
    | exact .inl rfl

theorem test_witness_DstReadInWindowIsBinary :
    finished.Inv ∧ finished.phase = .complete ∧ (3 : BitVec 32).toNat < finished.outLen.toNat :=
  ⟨test_inv_finished, rfl, by decide⟩

theorem test_witness_ReadsFrame :
    exec (.srcrd 1) (small .grad) =
      .next { small .grad with replies := [.byte 255] } ∧
    exec (.dstrd 3) finished = .next { finished with replies := [.byte 0] } := ⟨by rfl, by rfl⟩

theorem test_witness_WritesAndCommandsFrame :
    exec (.wr .height 9) (small .idle) = .next { small .idle with height := 9 } ∧
    (∀ v, Instr.wr .height 9 ≠ .wr .width v) ∧ Instr.wr .height 9 ≠ .process ∧
    Instr.wr .height 9 ≠ .ack := ⟨by rfl, by simp, by simp, by simp⟩

theorem test_witness_EngineFrame :
    (nextOf (exec .nms (small .nms))).isSome = true ∧
    Instr.nms ∈ [Instr.extract, .gaussH, .gaussV, .grad, .nms, .classify, .hyst] := ⟨by rfl, by decide⟩

theorem test_witness_HostCannotDisturbARunningCall :
    (small .grad).busy = true ∧ decode (.port (writeTxn .width 9)) = .ok (.wr .width 9) ∧
    decode (.port ⟨.srcWrite, 1, [9, 4, 0, 0, 0]⟩) = .ok (.srcwr 4 9) ∧
    (small .grad).pixels ≤ (4 : BitVec 32).toNat ∧
    step (due (.access (writeTxn .width 9)) (small .grad)) = .next { small .grad with ovr := true } :=
  ⟨rfl, rfl, rfl, by decide, by rfl⟩

/-- V-VAL-10, V-VAL-8, V-VAL-14 and V-VAL-13: one triple for each of the four branches. -/
theorem test_witness_ValidateTakesExactlyOneBranch :
    ((0 : Word).toInt ≤ 0) ∧
    (2 * ((13 : Word).toNat : Int) < 3 * (3 : Word).toInt * (3 : Word).toInt) ∧
    (3 * (65 : Word).toInt * (64 : Word).toInt ≤ 2 * ((6240 : Word).toNat : Int) ∧
      (State.reset.caps.maxPixels : Int) < (65 : Word).toInt * (64 : Word).toInt) ∧
    (3 * (64 : Word).toInt * (64 : Word).toInt ≤ 2 * ((6144 : Word).toNat : Int) ∧
      (64 : Word).toInt * (64 : Word).toInt ≤ (State.reset.caps.maxPixels : Int)) := by decide

/-- V-VAL-4 and V-VAL-9. -/
theorem test_witness_LumaOnlyBufferIsTooSmall :
    0 < (checking 4 4 16).width.toInt ∧ 0 < (checking 4 4 16).height.toInt ∧
    ((checking 4 4 16).srcLen.toNat : Int) =
      (checking 4 4 16).width.toInt * (checking 4 4 16).height.toInt ∧
    ((checking 1 1 1).srcLen.toNat : Int) =
      (checking 1 1 1).width.toInt * (checking 1 1 1).height.toInt := by decide

theorem test_witness_PassingValidateBoundsTheCall :
    (small .validate).caps.Wf ∧
    exec .validate (small .validate) = .next { small .validate with phase := .extract } :=
  ⟨by decide, by rfl⟩

theorem test_witness_ExtractCopiesTheLumaPlane :
    (small .extract).pixels ≤ (small .extract).caps.maxPixels ∧
    (small .extract).pixels ≤ (small .extract).caps.srcCap ∧ 1 < (small .extract).h ∧
    1 < (small .extract).w ∧ (small .extract).src.read (1 * (small .extract).w + 1) = some 255 ∧
    ∀ e ∈ (small .extract).raced, e.1 ≠ 1 * (small .extract).w + 1 := by decide

/-- V-FIR-12's constant row meets the bounds 255 and 255; the hypothesis of monotony is met by V-FIR-8
below V-FIR-9 at the sample that differs. -/
theorem test_witness_Fir :
    (∀ k : Int, -2 ≤ k → k ≤ 2 → 255 ≤ ((fun _ => 255 : Nat → Byte) (clampIdx (0 + k) 5)).toNat ∧
      ((fun _ => 255 : Nat → Byte) (clampIdx (0 + k) 5)).toNat ≤ 255) ∧ 0 < 7 ∧
    ∀ j, j < 7 → (oneRow [0, 0, 0, 1, 0, 0, 0] (0 : Byte) 0 j).toNat ≤
      (oneRow [0, 0, 0, 2, 0, 0, 0] (0 : Byte) 0 j).toNat :=
  ⟨fun _ _ _ => ⟨le_refl _, le_refl _⟩, by decide, by decide⟩

/-- The hypothesis shared by the statements on GAUSS_H to HYST, and a pixel at the far corner. -/
theorem test_witness_EngineResults :
    (small .gaussH).pixels ≤ (small .gaussH).caps.maxPixels ∧ 1 < (small .gaussH).h ∧
    1 < (small .gaussH).w := by decide

/-- V-DIR-2's boundary values for the three comparisons, and the only equality. -/
theorem test_witness_DirectionQuantisesTheGradient :
    (|(41 : Int)| * 32768 < |(100 : Int)| * 13573) ∧
    (|(100 : Int)| * 13573 ≤ |(242 : Int)| * 32768 ∧ |(100 : Int)| * 79109 < |(242 : Int)| * 32768) ∧
    (|(100 : Int)| * 13573 ≤ |(42 : Int)| * 32768 ∧ |(42 : Int)| * 32768 ≤ |(100 : Int)| * 79109) ∧
    (|(0 : Int)| ≤ 1020 ∧ |(0 : Int)| * 32768 = |(0 : Int)| * 13573) := by decide

/-- V-NMS-2's two central pixels, and one of magnitude 0. -/
theorem test_witness_TiesKeepTheSmallerIndex :
    let mag : Nat → Nat → Nat := oneRow [0, 124, 364, 532, 532, 364, 124, 0] 0
    0 < 1 ∧ 4 < 8 ∧ 3 < 8 ∧ neighbour1 .row (0 : Int) (4 : Int) = ((0 : Int), (3 : Int)) ∧
    mag 0 3 = mag 0 4 ∧ magOutsideZero 1 8 mag (neighbour1 .row (0 : Int) (3 : Int)) < mag 0 3 ∧
    magOutsideZero 1 8 mag (neighbour2 .row (0 : Int) (4 : Int)) < mag 0 4 ∧ mag 0 7 = 0 := by decide

/-- V-CLS-2's boundary magnitudes, one for each line of the rule. -/
theorem test_witness_ClassifySortsByTheThresholds :
    let s : State := { small .classify with planes := { Planes.empty with
      mag := [49, 50, 150, 151], nmsk := [true, true, true, true] } }
    s.pixels ≤ s.caps.maxPixels ∧
    (s.nmskAt 0 0 = true ∧ s.magAt 0 0 < 50) ∧
    (s.nmskAt 0 1 = true ∧ 50 ≤ s.magAt 0 1 ∧ s.magAt 0 1 ≤ 150) ∧
    (s.nmskAt 1 0 = true ∧ 50 ≤ s.magAt 1 0 ∧ s.magAt 1 0 ≤ 150) ∧
    (s.nmskAt 1 1 = true ∧ 150 < s.magAt 1 1) ∧
    ({ s with planes := { s.planes with nmsk := [false] } } : State).nmskAt 0 0 = false := by decide

/-- V-HYST-3: only weak pixels. -/
theorem test_witness_NoStrongPixelNoEdge :
    ∀ r c, r < 2 → c < 3 → (fun _ _ => Cls.weak : Nat → Nat → Cls) r c ≠ .strong :=
  fun _ _ _ _ h => by cases h

theorem test_witness_FlattenWritesTheEdgeMap :
    (small .flatten).caps.Wf ∧ (small .flatten).pixels ≤ (small .flatten).caps.maxPixels := by decide

/-- One pixel above MAX_PIXELS; for EXTRACT within and above SRC_CAP. -/
theorem test_witness_OversizedFramesFaultByName :
    let s : State := { State.reset with width := 4097, height := 1 }
    let u : State := { State.reset with width := 6145, height := 1 }
    s.caps.maxPixels < s.pixels ∧ s.pixels ≤ s.caps.srcCap ∧ u.caps.maxPixels < u.pixels ∧
    u.caps.srcCap < u.pixels ∧ Instr.hyst ∈ [Instr.gaussH, .gaussV, .grad, .nms, .classify, .hyst] := by
  decide

theorem test_witness_CallComputesProcessFrame :
    (small .validate).phase = .validate ∧ (small .validate).inbox = [] ∧
    (small .validate).raced = [] ∧ (small .validate).caps.Wf := by decide

/-- Two states that differ in flags, CTRL, DST and a chroma byte. -/
theorem test_witness_CallsAreIndependent :
    let s := small .validate
    let s' : State := { s with ovr := true, ie := true, dst := [(0, 255)], src := s.src.write 5 99 }
    s.phase = .validate ∧ s'.phase = .validate ∧ s'.inbox = [] ∧ s'.raced = [] ∧ s.caps.Wf ∧
    s'.caps = s.caps ∧ SameOperands s s' ∧
    ∀ i < s.pixels, s'.srcByte i = s.srcByte i :=
  ⟨rfl, rfl, rfl, rfl, by decide, rfl, ⟨rfl, rfl, rfl⟩, by decide⟩

/-- The same with SRC never written: what an unwritten byte holds is one value in both states. -/
theorem test_witness_CallsAreIndependent_unwritten :
    let s := checking 2 2 6
    let s' : State := { s with ill := true, draws := 9, replies := [.byte 7] }
    SameOperands s s' ∧ ∀ i < s.pixels, s'.srcByte i = s.srcByte i :=
  ⟨⟨rfl, rfl, rfl⟩, fun _ _ => rfl⟩

/-- V-E2E-2's frame, and the same of one constant luma value. -/
theorem test_witness_EdgeMapStatements :
    (∃ out, processFrame 4096 (fun _ => 9) 2 1 1 = .ok out) ∧
    ∀ i : Nat, (i : Int) < 1 * 1 → (fun _ => 9 : Nat → Byte) i = 9 :=
  ⟨⟨_, rfl⟩, fun _ _ => rfl⟩

theorem test_witness_EveryCallEndsWithinNineSteps :
    (small .validate).Inv ∧ (small .validate).busy = true ∧ (small .validate).inbox = [] :=
  ⟨test_inv_validate, rfl, rfl⟩

theorem test_witness_EveryStepKeepsTheInvariant :
    (small .validate).Inv ∧
    step (small .validate) = .next { small .validate with phase := .extract } :=
  ⟨test_inv_validate, by rfl⟩

theorem test_witness_ResetEstablishesTheInvariant : (small .grad).caps.Wf := by decide

theorem test_witness_NoFaultInAnyRun :
    finished.Inv ∧ decode (.port (readTxn 0x1C)) = .ok (.rd .outLen) ∧
    Instr.wellFormed finished.caps (.rd .outLen) = true := ⟨test_inv_finished, rfl, rfl⟩

theorem test_witness_ResetTakesEveryRegisterToItsValue :
    (due .reset (small .grad)).inbox = [⟨0, .reset⟩] ∧
    ({ finished with inbox := [⟨5, .reset⟩] } : State).busy = false := ⟨rfl, rfl⟩

end Sys2Proof.Tests
end

section
/-! What one step can do, said once: the answers of a host access, of the engine, and of a step.
Every claim about a step is a case analysis of these three relations. -/

namespace Sys2Proof.Machine

variable {s t : State}

/-- The answers of a host access, by the operation it decodes to (40_host_commands.md). Only ACK
acknowledges, since a write of 2 to CMD decodes to ACK (30_encoding.md R72). -/
inductive HostMove (s : State) : Instr → State → Prop
  | same {i : Instr} : HostMove s i s
  | reply {i : Instr} (v : Reply) : HostMove s i (s.reply v)
  | setIll {i : Instr} : HostMove s i s.setIll
  | setOvr {i : Instr} : HostMove s i s.setOvr
  | setIe {i : Instr} (b : Bool) : HostMove s i { s with ie := b }
  | operands {i : Instr} (hb : s.busy = false) (w h l : Word) :
      HostMove s i { s with width := w, height := h, srcLen := l }
  | startCall {i : Instr} (hb : s.busy = false) : HostMove s i s.startCall
  | acknowledge (hb : s.busy = false) : HostMove s .ack s.acknowledge
  | srcWrite {i : Instr} (a : Nat) (b : Byte) (ha : a < s.caps.srcCap) :
      HostMove s i (s.writeSrc a b)

/-- The answers of the engine, one constructor per phase and two for VALIDATE (10_state.md R14). -/
inductive EngineMove (s : State) : State → Prop
  | validateFail (hp : s.phase = .validate) (e : ErrCode)
      (he : validateError s.caps.maxPixels s.wInt s.hInt s.len = some e) : EngineMove s (s.raise e)
  | validatePass (hp : s.phase = .validate)
      (he : validateError s.caps.maxPixels s.wInt s.hInt s.len = none) :
      EngineMove s { s with phase := .extract }
  | extract (hp : s.phase = .extract) : EngineMove s { s with
      raced := [], phase := .gaussH, draws := s.draws + 1,
      planes := { s.planes with luma := grid s.h s.w fun r c => s.lumaByte (rowMajor s.w r c) } }
  | gaussH (hp : s.phase = .gaussH) : EngineMove s { s with
      phase := .gaussV, draws := s.draws + 1,
      planes := { s.planes with hblur := hblurPlane s.h s.w s.lumaAt } }
  | gaussV (hp : s.phase = .gaussV) : EngineMove s { s with
      phase := .grad, draws := s.draws + 1,
      planes := { s.planes with blur := blurPlane s.h s.w s.hblurAt } }
  | grad (hp : s.phase = .grad) : EngineMove s { s with
      phase := .nms, draws := s.draws + 1,
      planes := { s.planes with
        gx := gxPlane s.h s.w s.blurAt, gy := gyPlane s.h s.w s.blurAt,
        mag := magPlane s.h s.w s.blurAt } }
  | nms (hp : s.phase = .nms) : EngineMove s { s with
      phase := .classify, draws := s.draws + 1,
      planes := { s.planes with nmsk := nmskPlane s.h s.w s.gxAt s.gyAt s.magAt } }
  | classify (hp : s.phase = .classify) : EngineMove s { s with
      phase := .hyst, draws := s.draws + 1,
      planes := { s.planes with cls := clsPlane s.h s.w s.magAt s.nmskAt } }
  | hyst (hp : s.phase = .hyst) : EngineMove s { s with
      phase := .flatten, draws := s.draws + 1,
      planes := { s.planes with edge := edgePlane s.h s.w s.clsAt } }
  | flatten (hp : s.phase = .flatten) : EngineMove s { s with
      dst := s.dst.writeFrom 0 (edgeMap s.h s.w s.edgeAt), outLen := BitVec.ofNat 32 s.pixels,
      err := .none, phase := .complete, planes := Planes.empty, draws := s.draws + 1 }

/-- The answers of a step: a reset event, a host access, an engine operation, or rest (logs 2,
10). -/
inductive Move (s : State) : State → Prop
  | reset {n : Nat} {rest : List Arrival} (hi : s.inbox = ⟨n, .reset⟩ :: rest) :
      Move s (State.hardReset { s with inbox := rest })
  | host {n : Nat} {x : Txn} {rest : List Arrival} {i : Instr} {t : State}
      (hi : s.inbox = ⟨n, .access x⟩ :: rest) (hdue : n = 0 ∨ s.busy = false)
      (hd : decode (.port x) = .ok i) (hm : HostMove { s with inbox := rest } i t) : Move s t
  | engine {l : List Arrival} {t : State} (hb : s.busy = true)
      (hm : EngineMove { s with inbox := l } t) : Move s t
  | rest (hb : s.busy = false) : Move s s

/-! ### The host -/

theorem eq_of_map_ok {ε α β : Type} {f : α → β} {x : Except ε α} {y : β} (h : x.map f = .ok y) :
    ∃ a, f a = y := by
  cases x with
  | error e => cases h
  | ok a => exact ⟨a, Except.ok.inj h⟩

/-- The operations an access on the host port decodes to (30_encoding.md R60, R69). -/
theorem decodeTxn_cases {x : Txn} {i : Instr} (h : decodeTxn x = .ok i) :
    (∃ r, i = .rd r) ∨ (∃ r v, i = decodeWrite r v) ∨ (∃ a b, i = .srcwr a b) ∨
      (∃ a, i = .srcrd a) ∨ ∃ a, i = .dstrd a := by
  unfold decodeTxn at h
  split at h
  · split at h
    · cases h
    · split at h
      · exact .inl ((eq_of_map_ok h).imp fun _ hr => hr.symm)
      · cases h
  · split at h
    · cases h
    · split at h
      · exact .inr (.inl ((eq_of_map_ok h).imp fun _ hr => ⟨_, hr.symm⟩))
      · cases h
  · split at h
    · cases h
    · split at h <;> cases h; exact .inr (.inr (.inl ⟨_, _, rfl⟩))
  · split at h
    · cases h
    · split at h <;> cases h; exact .inr (.inr (.inr (.inl ⟨_, rfl⟩)))
  · split at h
    · cases h
    · split at h <;> cases h; exact .inr (.inr (.inr (.inr ⟨_, rfl⟩)))
  · cases h

/-- A reserved word written to CMD sets ILL (40_host_commands.md R85, R89). -/
theorem cmdWrite_reserved (s : State) {v : Word} (hv : 3 ≤ v.toNat) : s.cmdWrite v = s.setIll := by
  refine if_pos ?_
  by_contra hn
  rw [not_or, not_not] at hn
  obtain ⟨hhi, hlo⟩ := hn
  have hhi := congrArg BitVec.toNat hhi
  simp only [BitVec.extractLsb'_toNat] at hhi hlo
  simp at hhi hlo
  omega

/-- The operation of a register write, and when it is a WR (30_encoding.md R62, R72). -/
theorem decodeWrite_cases (r : Reg) (v : Word) :
    decodeWrite r v = .nop ∨ decodeWrite r v = .process ∨ decodeWrite r v = .ack ∨
      (decodeWrite r v = .wr r v ∧ (r = .cmd → 3 ≤ v.toNat)) := by
  cases r
  case cmd =>
    unfold decodeWrite
    dsimp only
    split
    · exact .inl rfl
    · split
      · exact .inr (.inl rfl)
      · split
        · exact .inr (.inr (.inl rfl))
        · refine .inr (.inr (.inr ⟨rfl, fun _ => ?_⟩))
          bv_omega
  all_goals exact .inr (.inr (.inr ⟨rfl, nofun⟩))

/-- The answer of a WR the decoder can give (40_host_commands.md R81 to R84, R89). -/
theorem hostMove_writeReg (s : State) {r : Reg} {v : Word} (hr : r = .cmd → 3 ≤ v.toNat) :
    HostMove s (.wr r v) (s.writeReg r v) := by
  have op (w h l : Word) :
      HostMove s (.wr r v) (s.opWrite { s with width := w, height := h, srcLen := l }) := by
    unfold State.opWrite
    split
    · exact .setOvr
    · next hb => exact .operands (Bool.not_eq_true _ ▸ hb) w h l
  cases r
  case cmd => 
    rw [State.writeReg, cmdWrite_reserved s (hr rfl)]; exact .setIll
  case ctrl => exact .setIe _
  case width => exact op v s.height s.srcLen
  case height => exact op s.width v s.srcLen
  case srcLen => exact op s.width s.height v
  all_goals exact .same

/-- The answer of a decoded host access. -/
theorem hostMove_of_exec {x : Txn} {i : Instr} (hd : decode (.port x) = .ok i)
    (h : exec i s = .next t) : HostMove s i t := by
  rcases decodeTxn_cases hd with ⟨r, rfl⟩ | ⟨r, v, rfl⟩ | ⟨a, b, rfl⟩ | ⟨a, rfl⟩ | ⟨a, rfl⟩
  · cases h; exact .reply _
  · rcases decodeWrite_cases r v with hw | hw | hw | ⟨hw, hr⟩ <;> rw [hw] at h ⊢ <;> cases h
    · exact .same
    · rcases cmdProcess_cases s with ⟨-, hp⟩ | ⟨hb, hp⟩ <;> rw [hp]
      · exact .setOvr
      · exact .startCall hb
    · rcases cmdAck_cases s with ⟨-, hp⟩ | ⟨hb, hp⟩ <;> rw [hp]
      · exact .setOvr
      · exact .acknowledge hb
    · exact hostMove_writeReg s hr
  · change execSrcwr a b s = _ at h
    unfold execSrcwr at h
    split at h <;> cases h
    exact .srcWrite _ b ‹_›
  · change execSrcrd a s = _ at h
    unfold execSrcrd at h
    split at h <;> cases h
    exact .reply _
  · change execDstrd a s = _ at h
    unfold execDstrd at h
    split at h <;> cases h
    exact .reply _

/-! ### The engine -/

/-- The engine runs the operation its phase code decodes to (10_state.md R14). -/
theorem engineStep_of_decode {i : Instr} (h : decode (.phase (phaseCode s.phase)) = .ok i) :
    engineStep s = exec i s := by
  unfold engineStep; rw [h]

/-- The answer of the engine's step. -/
theorem engineMove_of_engineStep (hb : s.busy = true) (h : engineStep s = .next t) :
    EngineMove s t := by
  have run : ∀ i, decode (.phase (phaseCode s.phase)) = .ok i → exec i s = .next t :=
    fun i hi => engineStep_of_decode hi ▸ h
  cases hp : s.phase <;> rw [hp] at run
  case validate =>
    have h : execValidate s = .next t := run .validate rfl
    cases he : validateError s.caps.maxPixels s.wInt s.hInt s.len with
    | some e => rw [execValidate_error he] at h; cases h; exact .validateFail hp e he
    | none => rw [execValidate_pass he] at h; cases h; exact .validatePass hp he
  case extract =>
    have h : execExtract s = .next t := run .extract rfl
    unfold execExtract at h
    split at h
    · obtain ⟨-, rfl⟩ := passPhase_next h; exact .extract hp
    · cases h
  case gaussH => obtain ⟨-, rfl⟩ := passPhase_next (run .gaussH rfl); exact .gaussH hp
  case gaussV => obtain ⟨-, rfl⟩ := passPhase_next (run .gaussV rfl); exact .gaussV hp
  case grad => obtain ⟨-, rfl⟩ := passPhase_next (run .grad rfl); exact .grad hp
  case nms => obtain ⟨-, rfl⟩ := passPhase_next (run .nms rfl); exact .nms hp
  case classify => obtain ⟨-, rfl⟩ := passPhase_next (run .classify rfl); exact .classify hp
  case hyst => obtain ⟨-, rfl⟩ := passPhase_next (run .hyst rfl); exact .hyst hp
  case flatten =>
    have h : execFlatten s = .next t := run .flatten rfl
    unfold execFlatten at h
    split at h <;> cases h
    exact .flatten hp
  all_goals simp [State.busy, Phase.busy, hp] at hb

/-! ### The step -/

/-- Passing a gap changes the inbox only. -/
theorem passGap_eq (s : State) : ∃ l, s.passGap = { s with inbox := l } := by
  unfold State.passGap
  split
  · exact ⟨s.inbox, rfl⟩
  · exact ⟨_, rfl⟩

/-- The answer of a step. -/
theorem move_of_step (h : step s = .next t) : Move s t := by
  rcases step_cases s with ⟨⟨n, e⟩, rest, hi, hdue, hs⟩ | ⟨hb, -, hs⟩ | ⟨hb, -, hs⟩ <;> rw [hs] at h
  · cases e with
    | reset => cases h; exact .reset hi
    | access x =>
      dsimp only [hostStep] at h
      split at h
      · next i hd => exact .host hi hdue hd (hostMove_of_exec hd h)
      · cases h
  · obtain ⟨l, hl⟩ := passGap_eq s
    rw [hl] at h
    exact .engine (l := l) hb (engineMove_of_engineStep hb h)
  · cases h; exact .rest hb

end Sys2Proof.Machine
end

section
/-! The invariant: what each kind of move keeps (10_state.md R12, R13, R20, R21). -/

namespace Sys2Proof.Machine

variable {s t : State}

/-! ### Facts about phases -/

theorem busy_eq_false_iff :
    s.busy = false ↔ s.phase = .idle ∨ s.phase = .complete ∨ s.phase = .failed := by
  unfold State.busy
  cases s.phase <;> simp [Phase.busy]

/-- A validated phase is a phase of a running call past VALIDATE (10_state.md R14). -/
theorem not_rest_of_validated {q : Phase} (h : Phase.validated q = true) :
    ¬ (Phase.busy q = false ∨ q = .validate) ∧ q ≠ .complete ∧ q ≠ .failed := by
  revert h
  cases q <;> simp [Phase.validated, Phase.busy]

/-! ### Facts about the frame -/

theorem pixels_cast (hw : 0 < s.wInt) (hh : 0 < s.hInt) : (s.pixels : Int) = s.wInt * s.hInt := by
  unfold State.pixels State.w State.h
  rw [Nat.cast_mul, Int.toNat_of_nonneg hw.le, Int.toNat_of_nonneg hh.le]

/-- What a passing VALIDATE has checked (41_validate_extract.md R100). -/
theorem frame_of_validateError_none
    (he : validateError s.caps.maxPixels s.wInt s.hInt s.len = none) :
    1 ≤ s.wInt ∧ 1 ≤ s.hInt ∧ 3 * s.wInt * s.hInt ≤ 2 * s.len ∧ s.pixels ≤ s.caps.maxPixels := by
  rcases validateError_cases s.caps.maxPixels s.wInt s.hInt s.len with
    ⟨-, h⟩ | ⟨-, -, -, h⟩ | ⟨-, -, -, -, h⟩ | ⟨hw, hh, hl, hn, -⟩
  · rw [he] at h; cases h
  · rw [he] at h; cases h
  · rw [he] at h; cases h
  · rw [← pixels_cast hw hh] at hn
    exact ⟨hw, hh, hl, Int.ofNat_le.1 hn⟩

/-- VALIDATE raises a code other than 0 (30_encoding.md R64). -/
theorem validateError_ne_some_none (n : Nat) (w h l : Int) :
    validateError n w h l ≠ some .none := by
  rcases validateError_cases n w h l with
    ⟨-, h⟩ | ⟨-, -, -, h⟩ | ⟨-, -, -, -, h⟩ | ⟨-, -, -, -, h⟩ <;> rw [h] <;> nofun

section
variable {h w : Nat}

/-! Each phase writes whole planes (10_state.md R20). -/

@[simp] theorem length_hblurPlane (p : Nat → Nat → Byte) :
    (hblurPlane h w p).length = h * w := grid_length _ _ _
@[simp] theorem length_blurPlane (p : Nat → Nat → Byte) :
    (blurPlane h w p).length = h * w := grid_length _ _ _
@[simp] theorem length_gxPlane (p : Nat → Nat → Byte) :
    (gxPlane h w p).length = h * w := grid_length _ _ _
@[simp] theorem length_gyPlane (p : Nat → Nat → Byte) :
    (gyPlane h w p).length = h * w := grid_length _ _ _
@[simp] theorem length_magPlane (p : Nat → Nat → Byte) :
    (magPlane h w p).length = h * w := grid_length _ _ _
@[simp] theorem length_nmskPlane (x y : Nat → Nat → Int) (m : Nat → Nat → Nat) :
    (nmskPlane h w x y m).length = h * w := grid_length _ _ _
@[simp] theorem length_clsPlane (m : Nat → Nat → Nat) (k : Nat → Nat → Bool) :
    (clsPlane h w m k).length = h * w := grid_length _ _ _

@[simp] theorem length_edgeMap (edge : Nat → Nat → Bool) : (edgeMap h w edge).length = h * w :=
  grid_length _ _ _

end

/-- A plane of H rows and W columns is whole (20_memory.md R44). -/
theorem whole_of_length {α : Type} {p : List α} (hp : p.length = s.h * s.w) :
    wholeOrEmpty p s.pixels :=
  .inr (hp.trans (Nat.mul_comm _ _))

/-- Every byte of an EdgeMap is 0 or 255 (20_memory.md R47). -/
theorem edgeMap_getElem? {h w i : Nat} (edge : Nat → Nat → Bool) (hi : i < h * w) :
    (edgeMap h w edge)[i]? = some 0 ∨ (edgeMap h w edge)[i]? = some 255 := by
  have hm : ∀ b ∈ edgeMap h w edge, b = 0 ∨ b = 255 := by
    intro b hb
    obtain ⟨r, c, -, -, rfl⟩ := exists_of_mem_grid hb
    cases edge r c
    · exact .inl rfl
    · exact .inr rfl
  have hlt : i < (edgeMap h w edge).length := (length_edgeMap edge).symm ▸ hi
  rw [List.getElem?_eq_getElem hlt, Option.some_inj, Option.some_inj]
  exact hm _ (List.getElem_mem hlt)

/-! ### The ranges GRAD writes (43_canny.md R126, R129) -/

section
variable {h w : Nat} (blur : Nat → Nat → Byte)

theorem gxPlane_range : ∀ x ∈ gxPlane h w blur, -1020 ≤ x.toInt ∧ x.toInt ≤ 1020 := by
  intro x hx
  obtain ⟨r, c, -, -, rfl⟩ := exists_of_mem_grid hx
  have hr := sobelX_range h w blur r c
  rwa [toInt_ofInt_s11 hr.1 hr.2]

theorem gyPlane_range : ∀ x ∈ gyPlane h w blur, -1020 ≤ x.toInt ∧ x.toInt ≤ 1020 := by
  intro x hx
  obtain ⟨r, c, -, -, rfl⟩ := exists_of_mem_grid hx
  have hr := sobelY_range h w blur r c
  rwa [toInt_ofInt_s11 hr.1 hr.2]

theorem magPlane_range : ∀ x ∈ magPlane h w blur, x.toNat ≤ 2040 := by
  intro x hx
  obtain ⟨r, c, -, -, rfl⟩ := exists_of_mem_grid hx
  have hx := sobelX_range h w blur r c
  have hy := sobelY_range h w blur r c
  refine (BitVec.toNat_ofNat _ _).trans_le ((Nat.mod_le _ _).trans ?_)
  simp only [magnitude]
  omega

end

/-! ### States that hold nothing in the plane stores -/

/-- Losing what the plane stores hold keeps the invariant (log 8). -/
theorem State.Inv.dropStores (hs : s.Inv) : ({ s with planes := Planes.empty } : State).Inv :=
  { hs with
    stores_rest := fun _ => rfl
    luma_whole := .inl rfl, hblur_whole := .inl rfl, blur_whole := .inl rfl
    gx_whole := .inl rfl, gy_whole := .inl rfl, mag_whole := .inl rfl
    nmsk_whole := .inl rfl, cls_whole := .inl rfl, edge_whole := .inl rfl
    gx_range := List.forall_mem_nil _, gy_range := List.forall_mem_nil _
    mag_range := List.forall_mem_nil _ }

/-- New operands at rest, where no store is sized by the old ones (40_host_commands.md R84). -/
theorem State.Inv.operands (hs : s.Inv) (hb : s.busy = false) (w h l : Word) :
    ({ s with width := w, height := h, srcLen := l } : State).Inv :=
  have hp : s.planes = Planes.empty := hs.stores_rest (.inl hb)
  { hs with
    frame_ok := fun hv => absurd (.inl hb) (not_rest_of_validated hv).1
    luma_whole := .inl (congrArg Planes.luma hp), hblur_whole := .inl (congrArg Planes.hblur hp)
    blur_whole := .inl (congrArg Planes.blur hp), gx_whole := .inl (congrArg Planes.gx hp)
    gy_whole := .inl (congrArg Planes.gy hp), mag_whole := .inl (congrArg Planes.mag hp)
    nmsk_whole := .inl (congrArg Planes.nmsk hp), cls_whole := .inl (congrArg Planes.cls hp)
    edge_whole := .inl (congrArg Planes.edge hp) }

/-- A reset event gives a state that meets the invariant (70_reset_and_hazards.md R190). -/
theorem hardReset_inv (hc : s.caps.Wf) : s.hardReset.Inv where
  caps_wf := hc
  src_wf := rfl
  dst_wf := rfl
  src_below := List.forall_mem_nil _
  dst_below := List.forall_mem_nil _
  err_iff_fail := by simp
  outLen_iff_done := by simp
  outLen_le := Nat.zero_le _
  edgeMap_binary := nofun
  frame_ok := nofun
  stores_rest := fun _ => rfl
  raced_early := fun _ _ => rfl
  luma_whole := .inl rfl
  hblur_whole := .inl rfl
  blur_whole := .inl rfl
  gx_whole := .inl rfl
  gy_whole := .inl rfl
  mag_whole := .inl rfl
  nmsk_whole := .inl rfl
  cls_whole := .inl rfl
  edge_whole := .inl rfl
  gx_range := List.forall_mem_nil _
  gy_range := List.forall_mem_nil _
  mag_range := List.forall_mem_nil _

/-- State.reset differs from the state a reset event gives in the two counts only. -/
theorem reset_inv : State.reset.Inv :=
  { hardReset_inv (s := State.reset) (by decide) with }

/-! ### The host's moves -/

theorem State.Inv.inbox (hs : s.Inv) (l : List Arrival) : ({ s with inbox := l } : State).Inv :=
  { hs with }

/-- An accepted PROCESS or ACK leaves no result and passes to a phase without one
(40_host_commands.md R87, R88). -/
theorem State.Inv.startCall (hs : s.Inv) (hb : s.busy = false) : s.startCall.Inv :=
  { hs with
    err_iff_fail := by simp
    outLen_iff_done := by simp
    outLen_le := Nat.zero_le _
    edgeMap_binary := nofun
    frame_ok := nofun
    stores_rest := fun _ => hs.stores_rest (.inl hb)
    raced_early := fun h => absurd rfl h }

theorem State.Inv.acknowledge (hs : s.Inv) (hb : s.busy = false) : s.acknowledge.Inv :=
  { hs with
    err_iff_fail := by simp
    outLen_iff_done := by simp
    outLen_le := Nat.zero_le _
    edgeMap_binary := nofun
    frame_ok := nofun
    stores_rest := fun _ => hs.stores_rest (.inl hb)
    raced_early := fun _ _ => hs.raced_early (by rintro h; simp [State.busy, Phase.busy, h] at hb)
      (by rintro h; simp [State.busy, Phase.busy, h] at hb) }

/-- A byte written inside SRC (40_host_commands.md R91; logs 7, 8). -/
theorem State.Inv.writeSrc (hs : s.Inv) {a : Nat} (b : Byte) (ha : a < s.caps.srcCap) :
    (s.writeSrc a b).Inv := by
  have hw : (s.src.write a b).wf = true := Memory.wf_write a b hs.src_wf
  have hbelow : ∀ e ∈ s.src.write a b, e.1 < s.caps.srcCap := by
    intro e he
    rcases Memory.mem_write he with rfl | he
    · exact ha
    · exact hs.src_below e he
  rcases writeSrc_cases s a b with h | ⟨-, -, hp, h⟩ | ⟨-, -, -, -, h⟩ <;> rw [h]
  · exact { hs with src_wf := hw, src_below := hbelow }
  · exact { hs with
      src_wf := hw, src_below := hbelow
      raced_early := fun hv he => absurd hp (not_or.2 ⟨hv, he⟩) }
  · exact { hs.dropStores with src_wf := hw, src_below := hbelow }

theorem HostMove.inv {i : Instr} (hm : HostMove s i t) (hs : s.Inv) : t.Inv := by
  cases hm with
  | same => exact hs
  | reply v => exact { hs with }
  | setIll => exact { hs with }
  | setOvr => exact { hs with }
  | setIe b => exact { hs with }
  | operands hb w h l => exact hs.operands hb w h l
  | startCall hb => exact hs.startCall hb
  | acknowledge hb => exact hs.acknowledge hb
  | srcWrite a b ha => exact hs.writeSrc b ha

/-! ### The engine's moves -/

/-- A failing VALIDATE (60_exceptions.md R166). -/
theorem State.Inv.raise (hs : s.Inv) (hp : s.phase = .validate) {e : ErrCode} (he : e ≠ .none) :
    (s.raise e).Inv :=
  { hs with
    err_iff_fail := by simp [he]
    outLen_iff_done := by simp
    outLen_le := Nat.zero_le _
    edgeMap_binary := nofun
    frame_ok := nofun
    stores_rest := fun _ => hs.stores_rest (.inr hp)
    raced_early := fun _ _ => rfl }

/-- A passing VALIDATE has checked the frame (41_validate_extract.md R100). -/
theorem State.Inv.validatePass (hs : s.Inv) (hp : s.phase = .validate)
    (he : validateError s.caps.maxPixels s.wInt s.hInt s.len = none) :
    ({ s with phase := .extract } : State).Inv :=
  { hs with
    err_iff_fail := by simpa [hp] using hs.err_iff_fail
    outLen_iff_done := by simpa [hp] using hs.outLen_iff_done
    edgeMap_binary := nofun
    frame_ok := fun _ => frame_of_validateError_none he
    stores_rest := fun _ => hs.stores_rest (.inr hp)
    raced_early := fun _ h => absurd rfl h }

/-- From a phase past VALIDATE to another one: only PHASE, the raced bytes and the count of phases
change (10_state.md R14). -/
theorem State.Inv.passPhase (hs : s.Inv) {p : Phase} (hp : s.phase = p)
    (hv : Phase.validated p = true) (q : Phase) (hq : Phase.validated q = true)
    {raced : List (Nat × Option Byte)} (hr : raced = []) (d : Nat) :
    ({ s with phase := q, raced := raced, draws := d } : State).Inv :=
  have hv : Phase.validated s.phase = true := hp ▸ hv
  have ⟨_, hsc, hsf⟩ := not_rest_of_validated hv
  have ⟨hqr, hqc, hqf⟩ := not_rest_of_validated hq
  { hs with
    err_iff_fail := by simpa [hsf, hqf] using hs.err_iff_fail
    outLen_iff_done := by simpa [hsc, hqc] using hs.outLen_iff_done
    edgeMap_binary := fun h => absurd h hqc
    frame_ok := fun _ => hs.frame_ok hv
    stores_rest := fun h => absurd h hqr
    raced_early := fun _ _ => hr }

/-- FLATTEN and the entry to COMPLETE (44_flatten.md R150, R151). -/
theorem State.Inv.flatten (hs : s.Inv) (hp : s.phase = .flatten) (edge : Nat → Nat → Bool) :
    ({ s with
      dst := s.dst.writeFrom 0 (edgeMap s.h s.w edge), outLen := BitVec.ofNat 32 s.pixels,
      err := .none, phase := .complete, planes := Planes.empty,
      draws := s.draws + 1 } : State).Inv := by
  obtain ⟨hw, hh, -, hfit⟩ := hs.frame_ok (by rw [hp]; rfl)
  obtain ⟨-, hcap, hlt⟩ := hs.caps_wf
  have hlen : (edgeMap s.h s.w edge).length = s.pixels :=
    (length_edgeMap edge).trans (Nat.mul_comm _ _)
  have hpos : 0 < s.pixels := by
    have := Int.mul_pos hw hh
    rw [← pixels_cast hw hh] at this
    exact_mod_cast this
  have hout : (BitVec.ofNat 32 s.pixels).toNat = s.pixels :=
    (BitVec.toNat_ofNat _ _).trans (Nat.mod_eq_of_lt (by omega))
  exact { hs.dropStores with
    dst_wf := Memory.wf_writeFrom 0 _ hs.dst_wf
    dst_below := fun e he => by
      rcases Memory.mem_writeFrom he with h | h
      · change e.1 < s.caps.maxPixels; omega
      · exact hs.dst_below e h
    err_iff_fail := by simp
    outLen_iff_done := by
      have : BitVec.ofNat 32 s.pixels ≠ 0 := fun h => by rw [h] at hout; simp at hout; omega
      simpa using this
    outLen_le := hout.trans_le hfit
    edgeMap_binary := fun _ i hi => by
      change i < (BitVec.ofNat 32 s.pixels).toNat at hi
      change (s.dst.writeFrom 0 _).read i = _ ∨ (s.dst.writeFrom 0 _).read i = _
      rw [Memory.read_writeFrom, if_pos (by omega), Nat.sub_zero]
      exact edgeMap_getElem? edge (by rw [Nat.mul_comm]; change i < s.pixels; omega)
    frame_ok := nofun
    stores_rest := fun _ => rfl
    raced_early := fun _ _ => hs.raced_early (by rw [hp]; nofun) (by rw [hp]; nofun) }

theorem EngineMove.inv (hm : EngineMove s t) (hs : s.Inv) : t.Inv := by
  have raced {p : Phase} (hp : s.phase = p) (h1 : p ≠ .validate) (h2 : p ≠ .extract) :
      s.raced = [] := hs.raced_early (hp ▸ h1) (hp ▸ h2)
  cases hm with
  | validateFail hp e he =>
    exact hs.raise hp fun h0 => validateError_ne_some_none _ _ _ _ (he.trans (congrArg some h0))
  | validatePass hp he => exact hs.validatePass hp he
  | extract hp =>
    exact { hs.passPhase hp rfl .gaussH rfl rfl (s.draws + 1) with
      stores_rest := nofun
      luma_whole := whole_of_length (s := s)
        (grid_length _ _ fun r c => s.lumaByte (rowMajor s.w r c)) }
  | gaussH hp =>
    exact { hs.passPhase hp rfl .gaussV rfl (raced hp nofun nofun)
      (s.draws + 1) with
      stores_rest := nofun
      hblur_whole := whole_of_length (s := s) (length_hblurPlane _) }
  | gaussV hp =>
    exact { hs.passPhase hp rfl .grad rfl (raced hp nofun nofun)
      (s.draws + 1) with
      stores_rest := nofun
      blur_whole := whole_of_length (s := s) (length_blurPlane _) }
  | grad hp =>
    exact { hs.passPhase hp rfl .nms rfl (raced hp nofun nofun)
      (s.draws + 1) with
      stores_rest := nofun
      gx_whole := whole_of_length (s := s) (length_gxPlane _)
      gy_whole := whole_of_length (s := s) (length_gyPlane _)
      mag_whole := whole_of_length (s := s) (length_magPlane _)
      gx_range := gxPlane_range _
      gy_range := gyPlane_range _
      mag_range := magPlane_range _ }
  | nms hp =>
    exact { hs.passPhase hp rfl .classify rfl (raced hp nofun nofun)
      (s.draws + 1) with
      stores_rest := nofun
      nmsk_whole := whole_of_length (s := s) (length_nmskPlane _ _ _) }
  | classify hp =>
    exact { hs.passPhase hp rfl .hyst rfl (raced hp nofun nofun)
      (s.draws + 1) with
      stores_rest := nofun
      cls_whole := whole_of_length (s := s) (length_clsPlane _ _) }
  | hyst hp =>
    exact { hs.passPhase hp rfl .flatten rfl (raced hp nofun nofun)
      (s.draws + 1) with
      stores_rest := nofun
      edge_whole := whole_of_length (s := s) (length_edgePlane _) }
  | flatten hp => exact hs.flatten hp _

/-! ### The step -/

theorem Move.inv (hm : Move s t) (hs : s.Inv) : t.Inv := by
  cases hm with
  | reset hi => exact hardReset_inv (s := { s with inbox := _ }) hs.caps_wf
  | host hi hdue hd hm => exact hm.inv (hs.inbox _)
  | engine hb hm => exact hm.inv (hs.inbox _)
  | rest hb => exact hs

/-- Settles O55: a step is one of the moves, and each keeps the invariant. -/
theorem everyStepKeepsTheInvariant : Obligations.EveryStepKeepsTheInvariant :=
  fun _ _ hs h => (move_of_step h).inv hs

/-- Settles O56. -/
theorem resetEstablishesTheInvariant : Obligations.ResetEstablishesTheInvariant :=
  ⟨reset_inv, fun _ => hardReset_inv⟩

end Sys2Proof.Machine
end

section
/-! What a step does to PHASE and the sticky flags, and the steps of a resting block. -/

namespace Sys2Proof.Machine

variable {s t : State}

/-! ### PHASE -/

/-- A host access passes PHASE only from rest, to VALIDATE by PROCESS or to IDLE by ACK
(40_host_commands.md R87, R88). -/
theorem HostMove.phase {i : Instr} (hm : HostMove s i t) :
    t.phase = s.phase ∨ (s.busy = false ∧ (t.phase = .validate ∨ t.phase = .idle)) := by
  cases hm with
  | startCall hb => exact .inr ⟨hb, .inl rfl⟩
  | acknowledge hb => exact .inr ⟨hb, .inr rfl⟩
  | srcWrite a b _ => exact .inl (State.writeSrc_phase s a b)
  | same | reply | setIll | setOvr | setIe | operands => exact .inl rfl

/-- At rest VALIDATE is next, and IDLE is next or now (10_state.md R14). -/
theorem phaseSuccessors_of_rest (hb : s.busy = false) :
    .validate ∈ phaseSuccessors s.phase ∧ (.idle ∈ phaseSuccessors s.phase ∨ s.phase = .idle) := by
  rcases busy_eq_false_iff.1 hb with hp | hp | hp <;> rw [hp] <;> decide

/-- An engine operation passes to a phase its own names as next (10_state.md R14). -/
theorem EngineMove.phase (hm : EngineMove s t) : t.phase ∈ phaseSuccessors s.phase := by
  cases hm with
  | validateFail hp | validatePass hp | extract hp | gaussH hp | gaussV hp | grad hp | nms hp
  | classify hp | hyst hp | flatten hp => rw [hp]; simp [phaseSuccessors]

/-- Settles O8. -/
theorem phaseFollowsItsTable : Obligations.PhaseFollowsItsTable := by
  intro s t h
  cases move_of_step h with
  | reset hi => exact .inr (.inr ⟨rfl, _, _, hi⟩)
  | engine hb hm => exact .inr (.inl hm.phase)
  | rest hb => exact .inl ⟨rfl, .inl hb⟩
  | host hi hdue hd hm =>
    have hstay : s.busy = false ∨ ∃ e rest, s.inbox = ⟨0, e⟩ :: rest :=
      hdue.symm.imp_right fun hn => ⟨_, _, hn ▸ hi⟩
    rcases hm.phase with hp | ⟨hb, hp | hp⟩
    · exact .inl ⟨hp, hstay⟩
    · exact .inr (.inl (hp ▸ (phaseSuccessors_of_rest hb).1))
    · rcases (phaseSuccessors_of_rest hb).2 with hmem | hidle
      · exact .inr (.inl (hp ▸ hmem))
      · exact .inl ⟨hp.trans hidle.symm, hstay⟩

/-! ### The sticky flags -/

/-- A host access keeps a sticky flag that is set, or is an ACK at rest (10_state.md R15). -/
theorem HostMove.flags {i : Instr} (hm : HostMove s i t) :
    ((s.ovr = true → t.ovr = true) ∧ (s.ill = true → t.ill = true)) ∨
      (i = .ack ∧ s.busy = false) := by
  cases hm with
  | acknowledge hb => exact .inr ⟨rfl, hb⟩
  | setOvr => exact .inl ⟨fun _ => rfl, id⟩
  | setIll => exact .inl ⟨id, fun _ => rfl⟩
  | srcWrite a b _ => exact .inl (by simp)
  | same | reply | setIe | operands | startCall => exact .inl ⟨id, id⟩

/-- No engine operation changes a sticky flag (60_exceptions.md R172). -/
theorem EngineMove.flags (hm : EngineMove s t) : t.ovr = s.ovr ∧ t.ill = s.ill := by
  cases hm <;> exact ⟨rfl, rfl⟩

/-- Settles O20. -/
theorem stickyFlagsClearedOnlyByAckOrReset : Obligations.StickyFlagsClearedOnlyByAckOrReset := by
  intro s t h hclear
  have lost : ¬ ((s.ovr = true → t.ovr = true) ∧ (s.ill = true → t.ill = true)) := by
    rintro ⟨ho, hl⟩
    rcases hclear with ⟨h1, h2⟩ | ⟨h1, h2⟩ <;> simp_all
  cases move_of_step h with
  | reset hi => exact ⟨_, _, _, hi, .inl rfl⟩
  | engine hb hm => exact absurd ⟨hm.flags.1.trans, hm.flags.2.trans⟩ lost
  | rest hb => exact absurd ⟨id, id⟩ lost
  | host hi hdue hd hm =>
    rcases hm.flags with hk | ⟨rfl, hb⟩
    · exact absurd hk lost
    · exact ⟨_, _, _, hi, .inr ⟨hb, _, rfl, hd⟩⟩

/-! ### Who steps -/

/-- A phase whose code names an operation is a phase of a running call (10_state.md R14). -/
theorem busy_of_decode {i : Instr} (h : decode (.phase (phaseCode s.phase)) = .ok i) :
    s.busy = true := by
  unfold State.busy
  cases hp : s.phase <;> rw [hp] at h
  case idle | complete | failed => cases h
  all_goals rfl

/-- Settles O6. -/
theorem stepRunsThePhaseOperation : Obligations.StepRunsThePhaseOperation := by
  intro s i hd
  have hb := busy_of_decode hd
  refine ⟨fun hi => (step_of_busy hb hi).trans (engineStep_of_decode hd), ?_⟩
  intro n e rest hi
  rcases step_cases s with ⟨a, r, ha, hdue, -⟩ | ⟨-, -, hs⟩ | ⟨hf, -⟩
  · obtain ⟨rfl, -⟩ := List.cons.inj (hi.symm.trans ha)
    simp [hb] at hdue
  · have hgap : s.passGap = { s with inbox := ⟨n, e⟩ :: rest } := by simp [State.passGap, hi]
    rw [hs, hgap]
    exact engineStep_of_decode hd
  · simp [hb] at hf

/-- At rest with nothing to come the step answers the same state (log 10). -/
theorem step_of_rest (hb : s.busy = false) (hi : s.inbox = []) : step s = .next s := by
  rcases step_cases s with ⟨a, r, ha, -⟩ | ⟨hf, -⟩ | ⟨-, -, hs⟩
  · simp [hi] at ha
  · simp [hb] at hf
  · exact hs

/-- Settles O7. -/
theorem restingBlockStaysAsItIs : Obligations.RestingBlockStaysAsItIs :=
  fun _ hp hi => step_of_rest (busy_eq_false_iff.2 hp) hi

/-! ### The flags PHASE gives -/

/-- Settles O10, phase by phase. -/
theorem busyDoneFailFollowPhase : Obligations.BusyDoneFailFollowPhase := by
  intro s
  unfold State.busy State.done State.fail
  cases s.phase <;> decide

/-! ### A call that fails at once, and frames that do not fit -/

/-- Settles O33: the reset operands are 0, so VALIDATE raises InvalidDimensions. -/
theorem processStraightAfterResetFails : Obligations.ProcessStraightAfterResetFails := by
  intro s
  have hp : execProcess s.hardReset = .next s.hardReset.startCall := rfl
  have hv : execValidate s.hardReset.startCall =
      .next (s.hardReset.startCall.raise .invalidDimensions) :=
    execValidate_error (if_pos (.inl (by simp [State.wInt])))
  refine ⟨_, _, hp, hv, ?_, rfl, rfl⟩
  simp [State.readReg, State.statusWord, State.busy, State.done, State.fail, Phase.busy, phaseCode]

/-- A frame above MAX_PIXELS passes no phase (log 17). -/
theorem passPhase_overflow (p : Planes) (q : Phase) (h : s.caps.maxPixels < s.pixels) :
    s.passPhase p q = .fault .storeOverflow :=
  if_neg (Nat.not_le.2 h)

/-- Settles O49. -/
theorem oversizedFramesFaultByName : Obligations.OversizedFramesFaultByName := by
  intro s h
  refine ⟨?_, if_neg (Nat.not_le.2 h), fun hs => ?_, fun hs => if_neg (Nat.not_le.2 hs)⟩
  · simp only [List.forall_mem_cons]
    exact ⟨passPhase_overflow _ _ h, passPhase_overflow _ _ h, passPhase_overflow _ _ h,
      passPhase_overflow _ _ h, passPhase_overflow _ _ h, passPhase_overflow _ _ h,
      List.forall_mem_nil _⟩
  · exact (if_pos hs).trans (passPhase_overflow (s := { s with raced := [] }) _ _ h)

end Sys2Proof.Machine
end

section
/-! A whole call whose host is silent: nine engine steps, each reading only what the step before it
wrote, end in a state given in full. -/

namespace Sys2Proof.Machine

variable {s : State}

/-! ### A call VALIDATE refuses -/

/-- A run at rest with nothing to come stays where it is (log 10). -/
theorem run_of_rest (k : Nat) (hb : s.busy = false) (hi : s.inbox = []) :
    Host.Core.run Sys2Proof.core k s = .next s := by
  induction k with
  | zero => rfl
  | succ k ih => exact (run_next Sys2Proof.core k (step_of_rest hb hi)).trans ih

/-- A failing call takes one engine step, and rests in FAILED (60_exceptions.md R166). -/
theorem run_failing_call (k : Nat) {e : ErrCode} (hp : s.phase = .validate) (hi : s.inbox = [])
    (he : validateError s.caps.maxPixels s.wInt s.hInt s.len = some e) :
    Host.Core.run Sys2Proof.core (k + 1) s = .next (s.raise e) := by
  have hv : engineStep s = .next (s.raise e) :=
    (engineStep_of_decode (i := .validate) (by rw [hp]; rfl)).trans (execValidate_error he)
  exact run_of_busy k (by simp [State.busy, hp, Phase.busy]) hi hv (run_of_rest k rfl hi)

/-! ### A call past VALIDATE -/

/-- The state inside a call whose host is silent: PHASE, the plane stores and the count of phases
differ from the state the call started in. -/
def State.inCall (s : State) (q : Phase) (p : Planes) (d : Nat) : State :=
  { s with phase := q, planes := p, draws := d, raced := [] }

/-- The LUMA plane of a call: the bytes SRC holds at the luma indices (41_validate_extract.md
R104). -/
def lumaPlane (h w : Nat) (buf : Nat → Byte) : List Byte :=
  grid h w fun r c => buf (rowMajor w r c)

@[simp] theorem length_lumaPlane {h w : Nat} (buf : Nat → Byte) :
    (lumaPlane h w buf).length = h * w :=
  grid_length _ _ _

theorem written_lumaPlane {h w : Nat} (buf : Nat → Byte) (r c : Nat) (hr : r < h) (hc : c < w) :
    written w (lumaPlane h w buf) r c = buf (rowMajor w r c) :=
  written_grid _ hr hc

/-- One engine step of such a call, then the rest of the run. -/
theorem run_inCall (k : Nat) {q : Phase} {p : Planes} {d : Nat} {t : State} {o : Result}
    (hb : Phase.busy q = true) (hi : s.inbox = []) (ht : engineStep (s.inCall q p d) = .next t)
    (ho : Host.Core.run Sys2Proof.core k t = o) :
    Host.Core.run Sys2Proof.core (k + 1) (s.inCall q p d) = o :=
  run_of_busy k hb hi ht ho

section
variable {p : Planes} {d : Nat} (hfit : s.pixels ≤ s.caps.maxPixels)
include hfit

theorem engineStep_extract (hcap : s.pixels ≤ s.caps.srcCap) :
    ∃ p', engineStep (s.inCall .extract p d) = .next (s.inCall .gaussH p' (d + 1)) ∧
      p'.luma = lumaPlane s.h s.w s.srcByte := by
  refine ⟨_, (engineStep_of_decode (i := .extract) rfl).trans
    (execExtract_eq (s := s.inCall .extract p d) hcap hfit), ?_⟩
  exact grid_congr fun r c _ _ => lumaByte_of_not_raced (List.forall_mem_nil _)

theorem engineStep_gaussH (hl : p.luma.length = s.h * s.w) :
    ∃ p', engineStep (s.inCall .gaussH p d) = .next (s.inCall .gaussV p' (d + 1)) ∧
      p'.hblur = hblurPlane s.h s.w (written s.w p.luma) :=
  ⟨_, (engineStep_of_decode (i := .gaussH) rfl).trans (passPhase_eq _ _ hfit),
    hblurPlane_congr fun _ _ hr hc => planeAt_of_whole _ hl hr hc⟩

theorem engineStep_gaussV (hl : p.hblur.length = s.h * s.w) :
    ∃ p', engineStep (s.inCall .gaussV p d) = .next (s.inCall .grad p' (d + 1)) ∧
      p'.blur = blurPlane s.h s.w (written s.w p.hblur) :=
  ⟨_, (engineStep_of_decode (i := .gaussV) rfl).trans (passPhase_eq _ _ hfit),
    blurPlane_congr fun _ _ hr hc => planeAt_of_whole _ hl hr hc⟩

theorem engineStep_grad (hl : p.blur.length = s.h * s.w) :
    ∃ p', engineStep (s.inCall .grad p d) = .next (s.inCall .nms p' (d + 1)) ∧
      p'.gx = gxPlane s.h s.w (written s.w p.blur) ∧
      p'.gy = gyPlane s.h s.w (written s.w p.blur) ∧
      p'.mag = magPlane s.h s.w (written s.w p.blur) :=
  have h : ∀ r c, r < s.h → c < s.w → (s.inCall .grad p d).blurAt r c = written s.w p.blur r c :=
    fun _ _ hr hc => planeAt_of_whole _ hl hr hc
  ⟨_, (engineStep_of_decode (i := .grad) rfl).trans (passPhase_eq _ _ hfit),
    gxPlane_congr h, gyPlane_congr h, magPlane_congr h⟩

theorem engineStep_nms (hx : p.gx.length = s.h * s.w) (hy : p.gy.length = s.h * s.w)
    (hm : p.mag.length = s.h * s.w) :
    ∃ p', engineStep (s.inCall .nms p d) = .next (s.inCall .classify p' (d + 1)) ∧
      p'.nmsk = nmskPlane s.h s.w (fun r c => (written s.w p.gx r c).toInt)
        (fun r c => (written s.w p.gy r c).toInt) (fun r c => (written s.w p.mag r c).toNat) ∧
      p'.mag = p.mag :=
  ⟨_, (engineStep_of_decode (i := .nms) rfl).trans (passPhase_eq _ _ hfit),
    nmskPlane_congr (fun _ _ hr hc => congrArg _ (planeAt_of_whole _ hx hr hc))
      (fun _ _ hr hc => congrArg _ (planeAt_of_whole _ hy hr hc))
      (fun _ _ hr hc => congrArg _ (planeAt_of_whole _ hm hr hc)), rfl⟩

theorem engineStep_classify (hm : p.mag.length = s.h * s.w) (hk : p.nmsk.length = s.h * s.w) :
    ∃ p', engineStep (s.inCall .classify p d) = .next (s.inCall .hyst p' (d + 1)) ∧
      p'.cls = clsPlane s.h s.w (fun r c => (written s.w p.mag r c).toNat)
        (written s.w p.nmsk) :=
  ⟨_, (engineStep_of_decode (i := .classify) rfl).trans (passPhase_eq _ _ hfit),
    clsPlane_congr (fun _ _ hr hc => planeAt_of_whole _ hk hr hc)
      (fun _ _ hr hc => congrArg _ (planeAt_of_whole _ hm hr hc))⟩

theorem engineStep_hyst (hl : p.cls.length = s.h * s.w) :
    ∃ p', engineStep (s.inCall .hyst p d) = .next (s.inCall .flatten p' (d + 1)) ∧
      p'.edge = edgePlane s.h s.w (written s.w p.cls) :=
  ⟨_, (engineStep_of_decode (i := .hyst) rfl).trans (passPhase_eq _ _ hfit),
    edgePlane_congr fun _ _ hr hc => planeAt_of_whole _ hl hr hc⟩

theorem engineStep_flatten (hl : p.edge.length = s.h * s.w) :
    engineStep (s.inCall .flatten p d) = .next { s with
      dst := s.dst.writeFrom 0 (edgeMap s.h s.w (written s.w p.edge)),
      outLen := BitVec.ofNat 32 s.pixels, err := .none, phase := .complete,
      planes := Planes.empty, draws := d + 1, raced := [] } := by
  have h : edgeMap s.h s.w (s.inCall .flatten p d).edgeAt =
      edgeMap s.h s.w (written s.w p.edge) :=
    edgeMap_congr fun _ _ hr hc => planeAt_of_whole _ hl hr hc
  rw [← h]
  exact (engineStep_of_decode (i := .flatten) rfl).trans (execFlatten_eq hfit)

end

/-- The EdgeMap depends on the luma plane at its pixels only (44_flatten.md R152). -/
theorem edgeMapOf_congr {h w : Nat} {p q : Nat → Nat → Byte}
    (hpq : ∀ r c, r < h → c < w → p r c = q r c) : edgeMapOf h w p = edgeMapOf h w q := by
  unfold edgeMapOf
  rw [hblurPlane_congr hpq]

/-- The state a passing call ends in (44_flatten.md R150 to R152). -/
def State.afterCall (s : State) : State :=
  { s with
    dst := s.dst.writeFrom 0 (edgeMapOf s.h s.w fun r c => s.srcByte (rowMajor s.w r c)),
    outLen := BitVec.ofNat 32 s.pixels, err := .none, phase := .complete,
    planes := Planes.empty, draws := s.draws + 8, raced := [] }

/-- A call that passes VALIDATE, whose luma the host has not raced, takes nine engine steps. -/
theorem run_passing_call (hp : s.phase = .validate) (hi : s.inbox = []) (hr : s.raced = [])
    (hc : s.caps.Wf) (he : validateError s.caps.maxPixels s.wInt s.hInt s.len = none) :
    Host.Core.run Sys2Proof.core 9 s = .next s.afterCall := by
  obtain ⟨-, -, -, hfit⟩ := frame_of_validateError_none he
  have hcap : s.pixels ≤ s.caps.srcCap := hfit.trans hc.2.1
  have hv : engineStep s = .next (s.inCall .extract s.planes s.draws) := by
    rw [State.inCall, ← hr]
    exact (engineStep_of_decode (i := .validate) (by rw [hp]; rfl)).trans (execValidate_pass he)
  rw [State.afterCall, ← edgeMapOf_congr (written_lumaPlane s.srcByte)]
  refine run_of_busy 8 (by simp [State.busy, hp, Phase.busy]) hi hv ?_
  obtain ⟨p1, e1, hluma⟩ := engineStep_extract (p := s.planes) (d := s.draws) hfit hcap
  refine run_inCall 7 rfl hi e1 ?_
  obtain ⟨p2, e2, hhblur⟩ := engineStep_gaussH hfit (hluma ▸ length_lumaPlane _)
  refine run_inCall 6 rfl hi e2 ?_
  obtain ⟨p3, e3, hblur⟩ := engineStep_gaussV hfit (hhblur ▸ length_hblurPlane _)
  refine run_inCall 5 rfl hi e3 ?_
  obtain ⟨p4, e4, hgx, hgy, hmag⟩ := engineStep_grad hfit (hblur ▸ length_blurPlane _)
  refine run_inCall 4 rfl hi e4 ?_
  have lmag : p4.mag.length = s.h * s.w := hmag ▸ length_magPlane _
  obtain ⟨p5, e5, hnmsk, hkeep⟩ := engineStep_nms hfit (hgx ▸ length_gxPlane _)
    (hgy ▸ length_gyPlane _) lmag
  refine run_inCall 3 rfl hi e5 ?_
  obtain ⟨p6, e6, hcls⟩ := engineStep_classify hfit (hkeep ▸ lmag) (hnmsk ▸ length_nmskPlane _ _ _)
  refine run_inCall 2 rfl hi e6 ?_
  obtain ⟨p7, e7, hedge⟩ := engineStep_hyst hfit (hcls ▸ length_clsPlane _ _)
  refine run_inCall 1 rfl hi e7 ?_
  refine run_inCall 0 rfl hi (engineStep_flatten hfit (hedge ▸ length_edgePlane _)) ?_
  rw [hedge, hcls, hkeep, hnmsk, hgx, hgy, hmag, hblur, hhblur, hluma]
  rfl

/-! ### Two calls -/

/-- A byte of the EdgeMap of a finished call. -/
theorem afterCall_dst_read (s : State) {i : Nat} (hi : i < s.pixels) :
    s.afterCall.dst.read i =
      (edgeMapOf s.h s.w fun r c => s.srcByte (rowMajor s.w r c))[i]? := by
  have hlen : (edgeMapOf s.h s.w fun r c => s.srcByte (rowMajor s.w r c)).length = s.pixels :=
    (length_edgeMap _).trans (Nat.mul_comm _ _)
  exact (Memory.read_writeFrom _ _ _ _).trans (if_pos (by omega))

/-- Settles O51: both calls end as the operands, the capacities and the luma bytes say. -/
theorem callsAreIndependent : Obligations.CallsAreIndependent := by
  intro s s' hp hp' hi hi' hr hr' hc hcaps hops hsrc
  obtain ⟨hw, hh, hl⟩ := hops
  have hw' : s'.w = s.w := by rw [State.w, State.wInt, hw]; rfl
  have hh' : s'.h = s.h := by rw [State.h, State.hInt, hh]; rfl
  have hpix : s'.pixels = s.pixels := by rw [State.pixels, hw', hh']; rfl
  have hverr : validateError s'.caps.maxPixels s'.wInt s'.hInt s'.len =
      validateError s.caps.maxPixels s.wInt s.hInt s.len := by
    rw [hcaps, State.wInt, State.hInt, State.len, hw, hh, hl]; rfl
  cases he : validateError s.caps.maxPixels s.wInt s.hInt s.len with
  | some e =>
    exact ⟨_, _, run_failing_call 8 hp hi he, run_failing_call 8 hp' hi' (hverr.trans he),
      rfl, rfl, rfl, fun _ h => absurd h (Nat.not_lt_zero _)⟩
  | none =>
    refine ⟨_, _, run_passing_call hp hi hr hc he,
      run_passing_call hp' hi' hr' (hcaps ▸ hc) (hverr.trans he), rfl, rfl,
      congrArg (BitVec.ofNat 32) hpix, fun i hlt => ?_⟩
    have hlt : i < s.pixels :=
      lt_of_lt_of_le hlt ((BitVec.toNat_ofNat _ _).trans_le (Nat.mod_le _ _))
    rw [afterCall_dst_read s' (hpix ▸ hlt), afterCall_dst_read s hlt, hw', hh']
    refine congrArg (·[i]?) (edgeMapOf_congr fun r c hr hc => hsrc _ ?_)
    exact (rowMajor_lt hr hc).trans_eq (Nat.mul_comm _ _)

end Sys2Proof.Machine
end

section
/-! The memories the host sees (20_memory.md): a due access, the reads, and a luma byte overwritten
before EXTRACT has read it. -/

namespace Sys2Proof.Machine

variable {s t : State}

/-! ### A due host event -/

/-- A due host event is the step (20_memory.md R53; logs 2, 11). -/
theorem step_of_due {a : Arrival} {rest : List Arrival} (hi : s.inbox = a :: rest)
    (hdue : a.gap = 0 ∨ s.busy = false) : step s = hostStep a.event { s with inbox := rest } := by
  rcases step_cases s with ⟨b, r, hb, -, hs⟩ | ⟨hbusy, hgap, -⟩ | ⟨-, hn, -⟩
  · obtain ⟨rfl, rfl⟩ := List.cons.inj (hi.symm.trans hb)
    exact hs
  · rcases hdue with h0 | hf
    · exact absurd h0 (hgap a rest hi)
    · simp [hbusy] at hf
  · simp [hi] at hn

/-- An accepted access runs the operation it decodes to (30_encoding.md R69). -/
theorem hostStep_of_decode {x : Txn} {i : Instr} (hd : decode (.port x) = .ok i) :
    hostStep (.access x) s = exec i s := by
  unfold hostStep; dsimp only; rw [hd]

/-- Settles O5. -/
theorem stepRunsTheDecodedAccess : Obligations.StepRunsTheDecodedAccess :=
  fun _ _ _ _ _ hi hdue hd => (step_of_due hi hdue).trans (hostStep_of_decode hd)

/-! ### The reads -/

/-- A read of DST inside its capacity returns the byte found (40_host_commands.md R93). -/
theorem execDstrd_eq {i : BitVec 32} (hi : i.toNat < s.caps.maxPixels) :
    execDstrd i s = .next (s.reply (.byte (s.dstByte i.toNat))) :=
  if_pos hi

/-- Settles O25: the window lies inside DST, and the invariant holds every byte of it to 0 or 255. -/
theorem dstReadInWindowIsBinary : Obligations.DstReadInWindowIsBinary := by
  intro s i hs hp hi
  refine ⟨s.dstByte i.toNat, ?_, execDstrd_eq (hi.trans_le hs.outLen_le)⟩
  exact (hs.edgeMap_binary hp i.toNat hi).imp (dstByte_of_window hp hi) (dstByte_of_window hp hi)

/-- All a read does is return one value (20_memory.md R50). -/
theorem reply_of_exec_read {i : Instr}
    (hi : (∃ r, i = .rd r) ∨ (∃ a, i = .srcrd a) ∨ ∃ a, i = .dstrd a)
    (h : exec i s = .next t) : ∃ v, t = s.reply v := by
  rcases hi with ⟨r, rfl⟩ | ⟨a, rfl⟩ | ⟨a, rfl⟩
  · cases h; exact ⟨_, rfl⟩
  · change execSrcrd a s = _ at h
    unfold execSrcrd at h
    split at h <;> cases h
    exact ⟨_, rfl⟩
  · change execDstrd a s = _ at h
    unfold execDstrd at h
    split at h <;> cases h
    exact ⟨_, rfl⟩

/-- Settles O26. -/
theorem readsFrame : Obligations.ReadsFrame := by
  intro s t i hi h
  obtain ⟨v, rfl⟩ := reply_of_exec_read hi h
  exact ⟨v, rfl, ⟨rfl, rfl, rfl⟩, ⟨rfl, rfl⟩, ⟨rfl, rfl, rfl⟩, ⟨rfl, rfl⟩, ⟨fun _ => rfl, rfl⟩,
    fun _ => rfl, rfl, rfl, rfl⟩

/-! ### A raced luma byte -/

/-- The state after a write to a luma byte EXTRACT has not read: the byte stored, and what it held
remembered (20_memory.md R58, row 4; log 7). -/
def State.raceSrc (s : State) (i : Nat) (b : Byte) : State :=
  { s with src := s.src.write i b, raced := (i, s.src.read i) :: s.raced }

/-- SRCWR to such a byte (40_host_commands.md R91). -/
theorem execSrcwr_early {i : BitVec 32} (b : Byte) (hp : s.phase = .validate ∨ s.phase = .extract)
    (hi : i.toNat < s.pixels) (hcap : i.toNat < s.caps.srcCap) :
    execSrcwr i b s = .next (s.raceSrc i.toNat b) := by
  have hb : s.busy = true := by rcases hp with hp | hp <;> simp [State.busy, hp, Phase.busy]
  have hw : s.writeSrc i.toNat b = s.raceSrc i.toNat b := by
    simp [State.writeSrc, State.raceSrc, hb, hi, hp]
  rw [execSrcwr, if_pos hcap, hw]

/-- Settles O22: EXTRACT stores `lumaByte` of the state after the write, in which that one byte is
raced. -/
theorem racedLumaByteIsOldOrNew : Obligations.RacedLumaByteIsOldOrNew := by
  intro s i old new r c hp hraced hfit hcap hr hc hi hold
  have hidx : rowMajor s.w r c = i.toNat := hi.symm
  have hlt : i.toNat < s.pixels := hidx ▸ (rowMajor_lt hr hc).trans_eq (Nat.mul_comm _ _)
  have hluma : (s.raceSrc i.toNat new).lumaByte i.toNat = old ∨
      (s.raceSrc i.toNat new).lumaByte i.toNat = new :=
    lumaByte_of_raced_once (by rw [State.raceSrc, hraced, hold]) (Memory.read_write_same _ _ _)
  refine ⟨_, _, execSrcwr_early new hp hlt (hlt.trans_le hcap),
    execExtract_eq (s := s.raceSrc i.toNat new) hcap hfit, ?_⟩
  have hget := grid_getElem?
    (fun r c => (s.raceSrc i.toNat new).lumaByte (rowMajor s.w r c)) hr hc
  rw [hidx] at hget
  rw [← hi]
  exact hluma.imp (fun h => hget.trans (congrArg some h)) (fun h => hget.trans (congrArg some h))

end Sys2Proof.Machine
end

section
/-! Encodings and commands: the two directions of the decoder, the fields of the STATUS word, and
the commands as CMD writes (30_encoding.md). -/

namespace Sys2Proof

/-! ### Decode of encode -/

/-- A register write decodes to the operation of its register and word (30_encoding.md R61, R62). -/
theorem decode_writeTxn (r : Reg) (v : Word) :
    decode (.port (writeTxn r v)) = .ok (decodeWrite r v) := by
  change (decodeOffset (regOffset r)).map _ = _
  rw [decodeOffset_regOffset]
  exact congrArg (fun w => Except.ok (decodeWrite r w)) (wordOfBytes_byteOfWord v)

/-- A well-formed WR is no command word at CMD, so its write decodes to it (30_encoding.md R62, R72;
log 14). -/
theorem decodeWrite_of_wellFormed {c : Caps} {r : Reg} {v : Word}
    (h : (Instr.wr r v).wellFormed c = true) : decodeWrite r v = .wr r v := by
  cases r
  case cmd =>
    obtain ⟨h0, h1, h2⟩ : v ≠ 0 ∧ v ≠ 1 ∧ v ≠ 2 := by
      simpa [Instr.wellFormed, isCommandWord, and_assoc] using h
    exact (if_neg h0).trans ((if_neg h1).trans (if_neg h2))
  all_goals rfl

/-- Settles O2, family by family: the bytes of a word make the word again, and each offset and PHASE
code names its register and phase. -/
theorem decodeOfEncodeIsTheInstruction : Obligations.DecodeOfEncodeIsTheInstruction := by
  intro c i hi
  cases i with
  | rd r => exact congrArg (Except.map Instr.rd) (decodeOffset_regOffset r)
  | wr r v => exact (decode_writeTxn r v).trans (congrArg _ (decodeWrite_of_wellFormed hi))
  | nop => exact decode_writeTxn .cmd 0
  | process => exact decode_writeTxn .cmd 1
  | ack => exact decode_writeTxn .cmd 2
  | srcwr a b => exact congrArg (fun a => Except.ok (Instr.srcwr a b)) (wordOfBytes_byteOfWord a)
  | srcrd a => exact congrArg (fun a => Except.ok (Instr.srcrd a)) (wordOfBytes_byteOfWord a)
  | dstrd a => exact congrArg (fun a => Except.ok (Instr.dstrd a)) (wordOfBytes_byteOfWord a)
  | validate | extract | gaussH | gaussV | grad | nms | classify | hyst | flatten => rfl

/-! ### Encode of decode -/

/-- A mapped result that is accepted comes from an accepted one. -/
theorem exists_ok_of_map_ok {ε α β : Type} {f : α → β} {x : Except ε α} {y : β}
    (h : x.map f = .ok y) : ∃ a, x = .ok a ∧ f a = y := by
  cases x with
  | error e => cases h
  | ok a => exact ⟨a, rfl, Except.ok.inj h⟩

/-- An access whose size is checked is accepted at that size only. -/
theorem ok_of_size {ε α : Type} {n k : Nat} {e : ε} {x : Except ε α} {y : α}
    (h : (if n ≠ k then .error e else x) = Except.ok y) : n = k ∧ x = .ok y := by
  split at h
  · cases h
  · exact ⟨not_not.1 ‹_›, h⟩

/-- The write of a word given by its bytes, at the offset of an accepted register. -/
theorem writeTxn_wordOfBytes {o : Byte} {r : Reg} (d0 d1 d2 d3 : Byte)
    (h : decodeOffset o = .ok r) :
    writeTxn r (wordOfBytes d0 d1 d2 d3) = ⟨.regWrite, 4, [d0, d1, d2, d3, o]⟩ := by
  rw [writeTxn, bytesOfWord_wordOfBytes, regOffset_of_decodeOffset h]; rfl

/-- An accepted access is the access of its operation: each row fixes the size and the count of
operand bytes, and keeps every bit of them (30_encoding.md R60, R69; 60_exceptions.md R173). -/
theorem encode_of_decodeTxn {t : Txn} {i : Instr} (h : decodeTxn t = .ok i) :
    encode i = .port t := by
  obtain ⟨sel, size, bytes⟩ := t
  cases sel with
  | dstWrite => cases h
  | regRead =>
    obtain ⟨rfl, h'⟩ := ok_of_size h
    split at h'
    · next hb =>
      cases hb
      obtain ⟨r, ho, rfl⟩ := exists_ok_of_map_ok h'
      rw [encode, regOffset_of_decodeOffset ho]
    · cases h'
  | regWrite =>
    obtain ⟨rfl, h'⟩ := ok_of_size h
    split at h'
    · next hb =>
      cases hb
      obtain ⟨r, ho, rfl⟩ := exists_ok_of_map_ok h'
      rw [encode_decodeWrite, writeTxn_wordOfBytes _ _ _ _ ho]
    · cases h'
  | srcWrite | srcRead | dstRead =>
    obtain ⟨rfl, h'⟩ := ok_of_size h
    split at h'
    · next hb =>
      cases hb
      cases h'
      rw [encode, bytesOfWord_wordOfBytes]
    · cases h'

/-- Settles O3, for an access and for a PHASE code. -/
theorem everyAcceptedEncodingIsExact : Obligations.EveryAcceptedEncodingIsExact := by
  intro e i h
  cases e with
  | port t => exact encode_of_decodeTxn h
  | phase p => exact encode_of_decodePhase h

/-- Settles O1: each is one run of the decoder on fixed bytes. -/
theorem tableWordsDecodeAsWritten : Obligations.TableWordsDecodeAsWritten :=
  ⟨rfl, rfl, rfl, rfl, rfl, rfl, rfl, rfl, rfl, rfl, rfl⟩

end Sys2Proof

namespace Sys2Proof.Machine

/-! ### The STATUS word -/

/-- Bits 0 to 4 of the STATUS word are the flags (30_encoding.md R63). -/
theorem statusWord_flags (s : State) :
    s.statusWord.getLsbD 0 = s.busy ∧ s.statusWord.getLsbD 1 = s.done ∧
    s.statusWord.getLsbD 2 = s.fail ∧ s.statusWord.getLsbD 3 = s.ovr ∧
    s.statusWord.getLsbD 4 = s.ill := by
  simp only [State.statusWord, BitVec.getLsbD_append]
  simp

/-- From bit 5 up the STATUS word is PHASE's code between zeros (30_encoding.md R63): each field is
what is left when the fields below it are taken off. -/
theorem statusWord_fields (s : State) :
    s.statusWord.extractLsb' 5 3 = 0 ∧ s.statusWord.extractLsb' 8 4 = phaseCode s.phase ∧
    s.statusWord.extractLsb' 12 20 = 0 := by
  simp (disch := decide) only [State.statusWord, BitVec.extractLsb'_append_eq_of_le,
    BitVec.extractLsb'_append_eq_of_add_le]
  simp

/-- Settles O9. -/
theorem statusWordHasItsFields : Obligations.StatusWordHasItsFields := by
  intro s
  obtain ⟨hbusy, hdone, hfail, hovr, hill⟩ := statusWord_flags s
  exact ⟨hbusy, hdone, hfail, hovr, hill, statusWord_fields s⟩

/-! ### Commands -/

/-- The three legal words of a CMD write (40_host_commands.md R85). -/
theorem cmdWrite_zero (s : State) : s.cmdWrite 0 = s.cmdNop := rfl

theorem cmdWrite_one (s : State) : s.cmdWrite 1 = s.cmdProcess := rfl

theorem cmdWrite_two (s : State) : s.cmdWrite 2 = s.cmdAck := rfl

/-- Settles O16: a write of each word to CMD answers what its command does, and NOP's answer is the
state itself. -/
theorem commandsAreCmdWrites : Obligations.CommandsAreCmdWrites :=
  fun s => ⟨rfl, congrArg Host.Outcome.next (cmdWrite_zero s).symm,
    congrArg Host.Outcome.next (cmdWrite_one s).symm,
    congrArg Host.Outcome.next (cmdWrite_two s).symm⟩

end Sys2Proof.Machine
end

section
/-! Register writes and commands (40_host_commands.md R81 to R90): the answer of each, and what all of
them leave alone. -/

namespace Sys2Proof.Machine

variable {s t : State}

/-! ### The answer of each write -/

/-- An operand write while BUSY is dropped and flagged (40_host_commands.md R84). -/
theorem opWrite_of_busy (hb : s.busy = true) (w : State) : s.opWrite w = s.setOvr := if_pos hb

/-- An operand write at rest is stored (40_host_commands.md R84). -/
theorem opWrite_of_rest (hb : s.busy = false) (w : State) : s.opWrite w = w :=
  if_neg (Bool.not_eq_true _ ▸ hb)

theorem cmdProcess_of_busy (hb : s.busy = true) : s.cmdProcess = s.setOvr := if_pos hb

theorem cmdProcess_of_rest (hb : s.busy = false) : s.cmdProcess = s.startCall :=
  if_neg (Bool.not_eq_true _ ▸ hb)

theorem cmdAck_of_busy (hb : s.busy = true) : s.cmdAck = s.setOvr := if_pos hb

theorem cmdAck_of_rest (hb : s.busy = false) : s.cmdAck = s.acknowledge :=
  if_neg (Bool.not_eq_true _ ▸ hb)

/-- Settles O15: a reserved word is `cmdWrite_reserved`; 0, 1 and 2 are the three commands. -/
theorem cmdWriteDecodesInOrder : Obligations.CmdWriteDecodesInOrder := by
  intro s v
  have word (k : Word) (hv : v.toNat = k.toNat) : exec (.wr .cmd v) s = .next (s.cmdWrite k) := by
    rw [BitVec.eq_of_toNat_eq hv]; rfl
  refine ⟨fun hv => ?_, word 0, fun hv hb => ?_, fun hv hb => ?_, fun hv hb => ?_⟩
  · exact congrArg Host.Outcome.next (cmdWrite_reserved s hv)
  · rcases hv with hv | hv
    · rw [word 1 hv, cmdWrite_one, cmdProcess_of_busy hb]; rfl
    · rw [word 2 hv, cmdWrite_two, cmdAck_of_busy hb]; rfl
  · rw [word 1 hv, cmdWrite_one, cmdProcess_of_rest hb]; rfl
  · rw [word 2 hv, cmdWrite_two, cmdAck_of_rest hb]; rfl

/-- Settles O12, register by register. -/
theorem readOnlyWritesChangeNothing : Obligations.ReadOnlyWritesChangeNothing := by
  intro s v
  simp only [List.forall_mem_cons]
  exact ⟨rfl, rfl, rfl, rfl, rfl, rfl, List.forall_mem_nil _⟩

/-- Settles O13: bit 0 of a word is its remainder by 2. -/
theorem ctrlWriteSetsOnlyIe : Obligations.CtrlWriteSetsOnlyIe := by
  intro s v
  have hbit : v.getLsbD 0 = decide (v.toNat % 2 = 1) := Nat.testBit_zero v.toNat
  rw [← hbit]
  rfl

/-- Settles O14. -/
theorem operandWriteStoresOrFlags : Obligations.OperandWriteStoresOrFlags := by
  intro s v
  refine ⟨fun hp => ?_, fun hb => ?_⟩
  · have hb : s.busy = false := busy_eq_false_iff.2 hp
    exact ⟨congrArg _ (opWrite_of_rest hb _), congrArg _ (opWrite_of_rest hb _),
      congrArg _ (opWrite_of_rest hb _)⟩
  · simp only [List.forall_mem_cons]
    exact ⟨congrArg _ (opWrite_of_busy hb _), congrArg _ (opWrite_of_busy hb _),
      congrArg _ (opWrite_of_busy hb _), List.forall_mem_nil _⟩

/-- Settles O17. -/
theorem processStartsOrIsDropped : Obligations.ProcessStartsOrIsDropped :=
  fun _ => ⟨fun hp => congrArg _ (cmdProcess_of_rest (busy_eq_false_iff.2 hp)),
    fun hb => congrArg _ (cmdProcess_of_busy hb)⟩

/-- In IDLE the interrupt line is low, whatever IE is (60_exceptions.md R170). -/
theorem irq_of_idle (hp : s.phase = .idle) : s.irq = false := by
  simp [State.irq, State.done, State.fail, hp]

/-- Settles O18. -/
theorem ackReleasesOrIsDropped : Obligations.AckReleasesOrIsDropped :=
  fun s => ⟨fun hp => ⟨s.acknowledge, congrArg _ (cmdAck_of_rest (busy_eq_false_iff.2 hp)),
    irq_of_idle rfl, rfl⟩, fun hb => congrArg _ (cmdAck_of_busy hb)⟩

/-! ### What writes and commands leave alone -/

/-- The answers of WR, NOP, PROCESS and ACK, each with the operations that may give it
(40_host_commands.md R81 to R90). -/
inductive WriteMove (s : State) : Instr → State → Prop
  | same {i : Instr} : WriteMove s i s
  | setOvr {i : Instr} : WriteMove s i s.setOvr
  | setIll (v : Word) : WriteMove s (.wr .cmd v) s.setIll
  | setIe (v : Word) : WriteMove s (.wr .ctrl v) { s with ie := v.getLsbD 0 }
  | width (hb : s.busy = false) (v : Word) : WriteMove s (.wr .width v) { s with width := v }
  | height (hb : s.busy = false) (v : Word) : WriteMove s (.wr .height v) { s with height := v }
  | srcLen (hb : s.busy = false) (v : Word) : WriteMove s (.wr .srcLen v) { s with srcLen := v }
  | startCall {i : Instr} (hb : s.busy = false) (hi : i = .process ∨ ∃ v, i = .wr .cmd v) :
      WriteMove s i s.startCall
  | acknowledge {i : Instr} (hb : s.busy = false) (hi : i = .ack ∨ ∃ v, i = .wr .cmd v) :
      WriteMove s i s.acknowledge

theorem writeMove_cmdProcess {i : Instr} (hi : i = .process ∨ ∃ v, i = .wr .cmd v) :
    WriteMove s i s.cmdProcess := by
  rcases cmdProcess_cases s with ⟨-, h⟩ | ⟨hb, h⟩ <;> rw [h]
  · exact .setOvr
  · exact .startCall hb hi

theorem writeMove_cmdAck {i : Instr} (hi : i = .ack ∨ ∃ v, i = .wr .cmd v) :
    WriteMove s i s.cmdAck := by
  rcases cmdAck_cases s with ⟨-, h⟩ | ⟨hb, h⟩ <;> rw [h]
  · exact .setOvr
  · exact .acknowledge hb hi

/-- An operand write is dropped and flagged, or stored at rest (40_host_commands.md R84). -/
theorem writeMove_opWrite {i : Instr} {w : State} (hw : s.busy = false → WriteMove s i w) :
    WriteMove s i (s.opWrite w) := by
  cases hb : s.busy with
  | true => rw [opWrite_of_busy hb]; exact .setOvr
  | false => rw [opWrite_of_rest hb]; exact hw hb

theorem writeMove_writeReg (s : State) (r : Reg) (v : Word) :
    WriteMove s (.wr r v) (s.writeReg r v) := by
  cases r with
  | cmd =>
    change WriteMove s _ (s.cmdWrite v)
    rcases cmdWrite_cases s v with h | h | h | h <;> rw [h]
    · exact .setIll v
    · exact .same
    · exact writeMove_cmdProcess (.inr ⟨v, rfl⟩)
    · exact writeMove_cmdAck (.inr ⟨v, rfl⟩)
  | ctrl => exact .setIe v
  | width => exact writeMove_opWrite fun hb => .width hb v
  | height => exact writeMove_opWrite fun hb => .height hb v
  | srcLen => exact writeMove_opWrite fun hb => .srcLen hb v
  | status | err | outLen | cap | thresh | coef => exact .same

/-- The answer of a write or command. -/
theorem writeMove_of_exec {i : Instr}
    (hi : (∃ r v, i = .wr r v) ∨ i = .nop ∨ i = .process ∨ i = .ack) (h : exec i s = .next t) :
    WriteMove s i t := by
  rcases hi with ⟨r, v, rfl⟩ | rfl | rfl | rfl <;> cases h
  · exact writeMove_writeReg s r v
  · exact .same
  · exact writeMove_cmdProcess (.inl rfl)
  · exact writeMove_cmdAck (.inl rfl)

namespace WriteMove

variable {i : Instr}

/-- No write or command touches the memories, the plane stores or what the outside gives
(20_memory.md R50). -/
theorem keeps_memories (hm : WriteMove s i t) :
    SameSrc s t ∧ SameDst s t ∧ SameHost s t ∧ t.planes = s.planes ∧ t.raced = s.raced ∧
      t.replies = s.replies ∧ t.draws = s.draws := by
  cases hm <;> exact ⟨⟨fun _ => rfl, rfl⟩, fun _ => rfl, ⟨rfl, rfl⟩, rfl, rfl, rfl, rfl⟩

theorem keeps_width (hm : WriteMove s i t) (hi : ∀ v, i ≠ .wr .width v) : t.width = s.width := by
  cases hm with
  | width _ v => exact absurd rfl (hi v)
  | _ => rfl

theorem keeps_height (hm : WriteMove s i t) (hi : ∀ v, i ≠ .wr .height v) :
    t.height = s.height := by
  cases hm with
  | height _ v => exact absurd rfl (hi v)
  | _ => rfl

theorem keeps_srcLen (hm : WriteMove s i t) (hi : ∀ v, i ≠ .wr .srcLen v) :
    t.srcLen = s.srcLen := by
  cases hm with
  | srcLen _ v => exact absurd rfl (hi v)
  | _ => rfl

theorem keeps_ie (hm : WriteMove s i t) (hi : ∀ v, i ≠ .wr .ctrl v) : t.ie = s.ie := by
  cases hm with
  | setIe v => exact absurd rfl (hi v)
  | _ => rfl

/-- Only a command that starts or releases a call clears the results and moves PHASE
(40_host_commands.md R87, R88). -/
theorem keeps_results (hm : WriteMove s i t) (hc : ∀ v, i ≠ .wr .cmd v) (hp : i ≠ .process)
    (ha : i ≠ .ack) : SameResults s t ∧ t.phase = s.phase := by
  cases hm with
  | startCall _ hi => exact (hi.elim hp fun ⟨v, hv⟩ => hc v hv).elim
  | acknowledge _ hi => exact (hi.elim ha fun ⟨v, hv⟩ => hc v hv).elim
  | _ => exact ⟨⟨rfl, rfl⟩, rfl⟩

end WriteMove

/-- Settles O27. -/
theorem writesAndCommandsFrame : Obligations.WritesAndCommandsFrame := by
  intro s t i hi h
  have hm : WriteMove s i t := writeMove_of_exec hi h
  obtain ⟨hsrc, hdst, hhost, hplanes, hraced, hreplies, hdraws⟩ := hm.keeps_memories
  exact ⟨hsrc, hdst, hhost, hplanes, hraced, hreplies, hdraws, hm.keeps_width, hm.keeps_height,
    hm.keeps_srcLen, hm.keeps_ie, hm.keeps_results⟩

end Sys2Proof.Machine
end

section
/-! Register reads and buffer accesses (40_host_commands.md R80, R91 to R93), and the host accesses a
running call does not notice (10_state.md R26). -/

namespace Sys2Proof.Machine

variable {s t : State}

/-! ### Register reads -/

/-- The number of two words side by side. -/
theorem toNat_append_eq_add {n m : Nat} (x : BitVec n) (y : BitVec m) :
    (x ++ y).toNat = x.toNat * 2 ^ m + y.toNat := by
  rw [BitVec.toNat_append, ← Nat.shiftLeft_add_eq_or_of_lt y.isLt, Nat.shiftLeft_eq]

/-- The STATUS word as the weights of its bits (30_encoding.md R63). -/
theorem toNat_statusWord (s : State) :
    s.statusWord.toNat = s.busy.toNat + 2 * s.done.toNat + 4 * s.fail.toNat + 8 * s.ovr.toNat +
      16 * s.ill.toNat + 256 * (phaseCode s.phase).toNat := by
  simp only [State.statusWord, toNat_append_eq_add, BitVec.toNat_ofBool]
  simp only [BitVec.ofNat_eq_ofNat, BitVec.toNat_ofNat, Nat.zero_mod]
  omega

theorem toNat_readReg_err (s : State) : (s.readReg .err).toNat = (errCode s.err).toNat :=
  BitVec.toNat_setWidth_of_le (by decide)

theorem toNat_readReg_ctrl (s : State) : (s.readReg .ctrl).toNat = s.ie.toNat :=
  (BitVec.toNat_setWidth_of_le (by decide)).trans (BitVec.toNat_ofBool _)

/-- CAP reads as MAX_PIXELS, which fits a word (30_encoding.md R66). -/
theorem toNat_readReg_cap (hc : s.caps.Wf) : (s.readReg .cap).toNat = s.caps.maxPixels := by
  obtain ⟨-, hle, hlt⟩ := hc
  exact (BitVec.toNat_ofNat _ _).trans (Nat.mod_eq_of_lt (by omega))

/-- A register read of another size, or at an offset off the map, does not decode (20_memory.md
R41). -/
theorem decode_read_refused {x : Txn} (hs : x.select = .regRead)
    (hx : x.size ≠ 4 ∨ ∃ o : Byte, x.bytes = [o] ∧ (o.toNat % 4 ≠ 0 ∨ 0x28 < o.toNat)) :
    ∃ e, decode (.port x) = .error e := by
  obtain ⟨sel, size, bytes⟩ := x
  obtain rfl : sel = .regRead := hs
  by_cases hsize : size = 4
  · obtain ⟨o, hb, ho⟩ := hx.resolve_left (not_not.2 hsize)
    obtain rfl : size = 4 := hsize
    obtain rfl : bytes = [o] := hb
    have ho : o.toNat % 4 ≠ 0 ∨ 0x2C ≤ o.toNat := by omega
    change ∃ e, (decodeOffset o).map Instr.rd = .error e
    rcases decodeOffset_refused ho with h | h <;> rw [h] <;> exact ⟨_, rfl⟩
  · exact ⟨.regNotWord, if_pos hsize⟩

/-- Settles O11. -/
theorem registerReadsReturnTheirWords : Obligations.RegisterReadsReturnTheirWords := by
  refine ⟨fun _ => decode_read_refused, fun s hc => ?_⟩
  refine ⟨s.readReg .status, s.readReg .err, s.readReg .ctrl, s.readReg .cap, toNat_statusWord s,
    toNat_readReg_err s, toNat_readReg_ctrl s, toNat_readReg_cap hc, ?_⟩
  simp only [List.forall_mem_cons]
  exact ⟨rfl, rfl, rfl, rfl, rfl, rfl, rfl, rfl, rfl, rfl, rfl, List.forall_mem_nil _⟩

/-! ### Buffer accesses -/

theorem execSrcwr_eq {i : BitVec 32} (b : Byte) (hi : i.toNat < s.caps.srcCap) :
    execSrcwr i b s = .next (s.writeSrc i.toNat b) := if_pos hi

theorem execSrcrd_eq {i : BitVec 32} (hi : i.toNat < s.caps.srcCap) :
    execSrcrd i s = .next (s.reply (.byte (s.srcByte i.toNat))) := if_pos hi

/-- A write that is not to a luma byte of a running call stores the byte and does nothing else
(40_host_commands.md R91). -/
theorem writeSrc_of_not_luma {i : Nat} (b : Byte) (h : s.busy = false ∨ s.pixels ≤ i) :
    s.writeSrc i b = { s with src := s.src.write i b } := by
  have hn : ¬ (s.busy = true ∧ i < s.pixels) := by
    rintro ⟨hb, hi⟩
    rcases h with h | h
    · simp [h] at hb
    · omega
  rcases writeSrc_cases s i b with hw | ⟨hb, hi, -⟩ | ⟨hb, hi, -⟩
  · exact hw
  · exact absurd ⟨hb, hi⟩ hn
  · exact absurd ⟨hb, hi⟩ hn

/-- Settles O21: what the write leaves alone in every phase is `writeSrc`'s own lemmas. -/
theorem srcWriteStoresOneByte : Obligations.SrcWriteStoresOneByte := by
  intro s i b
  refine ⟨fun hi => if_neg (Nat.not_lt.2 hi), fun hi => ?_⟩
  have hsame : (s.writeSrc i.toNat b).src.read i.toNat = some b := by
    rw [State.writeSrc_src, Memory.read_write_same]
  have hother (a : Nat) (ha : a ≠ i.toNat) :
      (s.writeSrc i.toNat b).src.read a = s.src.read a := by
    rw [State.writeSrc_src, Memory.read_write_other _ _ ha]
  have hquiet (h : s.busy = false ∨ s.pixels ≤ i.toNat) :
      (s.writeSrc i.toNat b).planes = s.planes ∧ (s.writeSrc i.toNat b).raced = s.raced := by
    rw [writeSrc_of_not_luma b h]
    exact ⟨rfl, rfl⟩
  refine ⟨s.writeSrc i.toNat b, execSrcwr_eq b hi, hsame, hother, ?_⟩
  simpa [SameDst, SameOperands, SameResults, SameFlags, SameHost] using hquiet

/-- Settles O23: the byte returned is `srcByte`, which the bytes written and the resets fix. -/
theorem srcReadReturnsTheByte : Obligations.SrcReadReturnsTheByte := by
  intro s i
  refine ⟨fun hi => if_neg (Nat.not_lt.2 hi), fun hi => ?_⟩
  refine ⟨s.srcByte i.toNat, fun x hx => srcByte_of_written hx, execSrcrd_eq hi,
    fun t hcaps hresets hread => ?_⟩
  rw [← srcByte_congr hresets hread]
  exact execSrcrd_eq (hcaps ▸ hi)

/-- Settles O24. -/
theorem dstReadReturnsTheEdgeByteWhenDone : Obligations.DstReadReturnsTheEdgeByteWhenDone := by
  intro s i
  refine ⟨fun hi => if_neg (Nat.not_lt.2 hi), fun hi => ⟨fun b hp hlt hread => ?_, fun _ => ?_⟩⟩
  · rw [← dstByte_of_window hp hlt hread]
    exact execDstrd_eq hi
  · exact ⟨_, execDstrd_eq hi⟩

/-! ### A running call -/

/-- What a running call reads or writes is as before: PHASE, operands, results, plane stores, DST and
the luma bytes of SRC (10_state.md R26). -/
def SameCall (s t : State) : Prop :=
  t.phase = s.phase ∧ SameOperands s t ∧ SameResults s t ∧ t.planes = s.planes ∧
    t.raced = s.raced ∧ SameDst s t ∧ t.caps = s.caps ∧
    ∀ a, a < s.pixels → t.src.read a = s.src.read a ∧ t.srcByte a = s.srcByte a

theorem sameCall_reply (s : State) (v : Reply) : SameCall s (s.reply v) :=
  ⟨rfl, ⟨rfl, rfl, rfl⟩, ⟨rfl, rfl⟩, rfl, rfl, fun _ => rfl, rfl, fun _ _ => ⟨rfl, rfl⟩⟩

/-- No call reads a SRC byte at W·H or above (20_memory.md R46). -/
theorem sameCall_writeSrc {a : Nat} (b : Byte) (ha : s.pixels ≤ a) :
    SameCall s (s.writeSrc a b) := by
  rw [writeSrc_of_not_luma b (.inr ha)]
  refine ⟨rfl, ⟨rfl, rfl, rfl⟩, ⟨rfl, rfl⟩, rfl, rfl, fun _ => rfl, rfl, fun k hk => ?_⟩
  have hread : (s.src.write a b).read k = s.src.read k :=
    Memory.read_write_other _ _ (hk.trans_le ha).ne
  exact ⟨hread, srcByte_congr (t := { s with src := s.src.write a b }) rfl hread⟩

/-- While BUSY a write or command sets a flag or IE at most (40_host_commands.md R83, R84, R89,
R90). -/
theorem WriteMove.sameCall {i : Instr} (hm : WriteMove s i t) (hb : s.busy = true) :
    SameCall s t := by
  cases hm with
  | width h | height h | srcLen h | startCall h | acknowledge h => simp [hb] at h
  | _ => exact ⟨rfl, ⟨rfl, rfl, rfl⟩, ⟨rfl, rfl⟩, rfl, rfl, fun _ => rfl, rfl,
      fun _ _ => ⟨rfl, rfl⟩⟩

/-- What a write on the port decodes to is a WR or a command (30_encoding.md R62, R72). -/
theorem decodeWrite_isWrite (r : Reg) (v : Word) :
    (∃ r' v', decodeWrite r v = .wr r' v') ∨ decodeWrite r v = .nop ∨
      decodeWrite r v = .process ∨ decodeWrite r v = .ack := by
  rcases decodeWrite_cases r v with h | h | h | ⟨h, -⟩
  · exact .inr (.inl h)
  · exact .inr (.inr (.inl h))
  · exact .inr (.inr (.inr h))
  · exact .inl ⟨r, v, h⟩

/-- A decoded access while BUSY, a write to a luma byte apart, leaves the call as it was. -/
theorem sameCall_of_exec {x : Txn} {i : Instr} (hb : s.busy = true)
    (hd : decode (.port x) = .ok i) (hluma : ∀ a b, i = .srcwr a b → s.pixels ≤ a.toNat)
    (h : exec i s = .next t) : SameCall s t := by
  have read (hi : (∃ r, i = .rd r) ∨ (∃ a, i = .srcrd a) ∨ ∃ a, i = .dstrd a) : SameCall s t := by
    obtain ⟨v, rfl⟩ := reply_of_exec_read hi h
    exact sameCall_reply s v
  rcases decodeTxn_cases hd with hi | ⟨r, v, rfl⟩ | ⟨a, b, rfl⟩ | hi | hi
  · exact read (.inl hi)
  · exact (writeMove_of_exec (decodeWrite_isWrite r v) h).sameCall hb
  · change execSrcwr a b s = _ at h
    unfold execSrcwr at h
    split at h <;> cases h
    exact sameCall_writeSrc b (hluma a b rfl)
  · exact read (.inr (.inl hi))
  · exact read (.inr (.inr hi))

/-- Settles O29: the step runs the decoded access at the state with the event taken out, which
differs in the inbox only. -/
theorem hostCannotDisturbARunningCall : Obligations.HostCannotDisturbARunningCall := by
  intro s t n x rest i hb hi hn hd hluma h
  rw [stepRunsTheDecodedAccess s n x rest i hi (.inl hn) hd] at h
  exact sameCall_of_exec (s := { s with inbox := rest }) hb hd hluma h

end Sys2Proof.Machine
end

section
/-! VALIDATE and EXTRACT: the branch VALIDATE takes on any operands, what a pass establishes of the
frame, and the LUMA plane (41_validate_extract.md R100 to R105). -/

namespace Sys2Proof.Machine

variable {s t : State}

/-! ### The checks of VALIDATE, an equation per branch (R100 to R103) -/

section
variable {n : Nat} {w h l : Int}

theorem validateError_of_nonpos (h1 : w ≤ 0 ∨ h ≤ 0) :
    validateError n w h l = some .invalidDimensions :=
  if_pos h1

theorem validateError_of_pos (hw : 0 < w) (hh : 0 < h) :
    validateError n w h l =
      if 2 * l < 3 * w * h then some .bufferTooSmall
      else if (n : Int) < w * h then some .allocationFailure else none :=
  if_neg (not_or.2 ⟨hw.not_ge, hh.not_ge⟩)

theorem validateError_of_short (hw : 0 < w) (hh : 0 < h) (hl : 2 * l < 3 * w * h) :
    validateError n w h l = some .bufferTooSmall :=
  (validateError_of_pos hw hh).trans (if_pos hl)

theorem validateError_of_large (hw : 0 < w) (hh : 0 < h) (hl : 3 * w * h ≤ 2 * l)
    (hn : n < w * h) : validateError n w h l = some .allocationFailure := by
  rw [validateError_of_pos hw hh, if_neg hl.not_gt, if_pos hn]

theorem validateError_of_fits (hw : 0 < w) (hh : 0 < h) (hl : 3 * w * h ≤ 2 * l)
    (hn : w * h ≤ n) : validateError n w h l = none := by
  rw [validateError_of_pos hw hh, if_neg hl.not_gt, if_neg hn.not_gt]

end

/-- Settles O30: each branch fixes the error VALIDATE raises, and so its answer. -/
theorem validateTakesExactlyOneBranch : Obligations.ValidateTakesExactlyOneBranch := by
  rintro s _ _ _ rfl rfl rfl
  exact ⟨fun h1 => execValidate_error (validateError_of_nonpos h1),
    fun hw hh hl => execValidate_error (validateError_of_short hw hh hl),
    fun hw hh hl hn => execValidate_error (validateError_of_large hw hh hl hn),
    fun hw hh hl hn => execValidate_pass (validateError_of_fits hw hh hl hn)⟩

/-- Settles O31: with W·H positive, L = W·H is below half of 3·W·H. -/
theorem lumaOnlyBufferIsTooSmall : Obligations.LumaOnlyBufferIsTooSmall := by
  intro s hw hh hl
  have hpos : 0 < s.width.toInt * s.height.toInt := mul_pos hw hh
  have hshort : 2 * (s.srcLen.toNat : Int) < 3 * s.width.toInt * s.height.toInt := by
    rw [mul_assoc, hl]; omega
  exact ⟨s.raise .bufferTooSmall, execValidate_error (validateError_of_short hw hh hshort),
    rfl, rfl, rfl, ⟨fun _ => rfl, rfl⟩, fun _ => rfl, ⟨rfl, rfl, rfl⟩, rfl, rfl, rfl⟩

/-! ### What a pass establishes (R105) -/

/-- VALIDATE moves PHASE to EXTRACT only by passing its checks (R100). -/
theorem validateError_none_of_extract (h : execValidate s = .next t) (hp : t.phase = .extract) :
    validateError s.caps.maxPixels s.wInt s.hInt s.len = none ∧
      t = { s with phase := .extract } := by
  cases he : validateError s.caps.maxPixels s.wInt s.hInt s.len with
  | some e => rw [execValidate_error he] at h; cases h; cases hp
  | none => rw [execValidate_pass he] at h; cases h; exact ⟨rfl, rfl⟩

/-- The index of a pixel is below W·H (20_memory.md R45). -/
theorem rowMajor_lt_pixels {r c : Nat} (hr : r < s.h) (hc : c < s.w) :
    rowMajor s.w r c < s.pixels :=
  (rowMajor_lt hr hc).trans_eq (Nat.mul_comm _ _)

/-- Settles O32: the checks bound W·H by L and by MAX_PIXELS, which is at most SRC_CAP, and a luma
index is below W·H. -/
theorem passingValidateBoundsTheCall : Obligations.PassingValidateBoundsTheCall := by
  rintro s t ⟨-, hcap, -⟩ h hp
  obtain ⟨he, rfl⟩ := validateError_none_of_extract h hp
  obtain ⟨hw, hh, hl, hmax⟩ := frame_of_validateError_none he
  have hpix : (s.pixels : Int) = s.wInt * s.hInt := pixels_cast hw hh
  have hpos : 0 < s.wInt * s.hInt := mul_pos hw hh
  have hlen : s.pixels ≤ s.len := by rw [mul_assoc] at hl; omega
  refine ⟨hw, hh, show 1 ≤ s.pixels by omega, hmax, hlen, fun r c hr hc => ?_⟩
  have hidx : rowMajor s.w r c < s.pixels := rowMajor_lt_pixels hr hc
  exact ⟨hidx.trans_le hlen, hidx.trans_le (hmax.trans hcap)⟩

/-! ### The LUMA plane (R104) -/

/-- Element [r][c] of the LUMA plane is the byte at the pixel's index (20_memory.md R45). -/
theorem lumaPlane_getElem? {h w r c : Nat} (buf : Nat → Byte) (hr : r < h) (hc : c < w) :
    (lumaPlane h w buf)[rowMajor w r c]? = some (buf (rowMajor w r c)) :=
  grid_getElem? _ hr hc

/-- Settles O34: element [r][c] is `lumaByte` of its index, which is the byte SRC holds wherever no
entry of the raced bytes has that index. -/
theorem extractCopiesTheLumaPlane : Obligations.ExtractCopiesTheLumaPlane := by
  intro s hmax hcap
  have hlen : (lumaPlane s.h s.w s.lumaByte).length = s.pixels :=
    (length_lumaPlane _).trans (Nat.mul_comm _ _)
  refine ⟨_, execExtract_eq hcap hmax, hlen, rfl, fun r c hr hc =>
    ⟨s.lumaByte (rowMajor s.w r c), lumaPlane_getElem? _ hr hc, fun hraced => ?_⟩⟩
  have hbyte : s.lumaByte (rowMajor s.w r c) = s.srcByte (rowMajor s.w r c) :=
    lumaByte_of_not_raced hraced
  exact ⟨hbyte, fun x hx => hbyte.trans (srcByte_of_written hx)⟩

end Sys2Proof.Machine
end

section
/-! The Gaussian FIR filter: FIR1D in plain arithmetic, its bounds, its monotony and its mirror
symmetry, and the two passes (42_gaussian_fir.md R112 to R117). -/

namespace Sys2Proof.Machine

/-! ### FIR1D in plain arithmetic (R112 to R114) -/

/-- A filter output is the rounded sum: it fits a byte, since the sum is at most 65280 (R114). -/
theorem toNat_firAt (v : Nat → Byte) (n i : Nat) :
    (firAt v n i).toNat = (firSum v n i + 128) / 256 := by
  have hsum : firSum v n i ≤ 65280 := firSum_le v n i
  have hbyte : (firSum v n i + 128) / 256 < 2 ^ 8 := by omega
  exact Nat.mod_eq_of_lt hbyte

/-- At a position of the sequence the middle tap needs no clamp (R113). -/
theorem toNat_firAt_of_lt (v : Nat → Byte) {n i : Nat} (hi : i < n) :
    (firAt v n i).toNat = (31 * (v (clampIdx ((i : Int) - 2) n)).toNat +
      60 * (v (clampIdx ((i : Int) - 1) n)).toNat + 74 * (v i).toNat +
      60 * (v (clampIdx ((i : Int) + 1) n)).toNat +
      31 * (v (clampIdx ((i : Int) + 2) n)).toNat + 128) / 256 := by
  rw [toNat_firAt, firSum_eq, clampIdx_inside hi]

@[simp] theorem length_fir1d (v : List Byte) : (fir1d v).length = v.length := by
  simp [fir1d]

theorem getElem?_fir1d {v : List Byte} {i : Nat} (hi : i < v.length) :
    (fir1d v)[i]? = some (firAt (fun j => v.getD j 0) v.length i) := by
  simp [fir1d, hi]

/-- Settles O35. -/
theorem firIsTheFiveTapSum : Obligations.FirIsTheFiveTapSum :=
  ⟨fun v => ⟨length_fir1d v, fun _ hi => getElem?_fir1d hi⟩,
    fun v n i => by rw [toNat_firAt, firSum_eq]⟩

/-! ### Bounds and monotony (R117, items 1 to 3) -/

/-- Settles O36: the weights sum to 256, so the sum lies between 256·lo and 256·hi, which rounding
takes to lo and hi. -/
theorem firStaysWithinItsWindow : Obligations.FirStaysWithinItsWindow := by
  intro v n i lo hi hwin
  have hsum : 256 * lo ≤ firSum v n i ∧ firSum v n i ≤ 256 * hi := by
    have h0 := hwin 0 (by decide) (by decide)
    rw [Int.add_zero] at h0
    have h1 := hwin (-2) (by decide) (by decide)
    have h2 := hwin (-1) (by decide) (by decide)
    have h3 := hwin 1 (by decide) (by decide)
    have h4 := hwin 2 (by decide) (by decide)
    rw [← sub_eq_add_neg] at h1 h2
    rw [firSum_eq]
    omega
  rw [toNat_firAt]
  omega

/-- The sum of the taps is monotone: no weight is negative. -/
theorem firSum_mono {u v : Nat → Byte} {n : Nat} (i : Nat) (hn : 0 < n)
    (huv : ∀ j, j < n → (u j).toNat ≤ (v j).toNat) : firSum u n i ≤ firSum v n i := by
  have tap : ∀ a : Int, (u (clampIdx a n)).toNat ≤ (v (clampIdx a n)).toNat :=
    fun a => huv _ (clampIdx_lt a hn)
  rw [firSum_eq, firSum_eq]
  gcongr <;> exact tap _

/-- Settles O37: rounding keeps the order of the sums. -/
theorem firIsMonotone : Obligations.FirIsMonotone := by
  intro u v n i hn huv
  have hsum : firSum u n i ≤ firSum v n i := firSum_mono i hn huv
  rw [toNat_firAt, toNat_firAt]
  omega

/-! ### Mirror symmetry (R117, item 4) -/

/-- Clamping commutes with the mirror of the indices, `a` to `n − 1 − a`. -/
theorem clampIdx_mirror {n : Nat} {a b : Int} (hn : 0 < n) (hab : a + b = n - 1) :
    n - 1 - clampIdx a n = clampIdx b n := by
  unfold clampIdx
  split_ifs <;> omega

/-- The weights read the same from both ends, so a mirrored sequence gives the mirrored output. -/
theorem firAt_mirror {u v : Nat → Byte} {n i : Nat} (hi : i < n)
    (huv : ∀ j, j < n → u j = v (n - 1 - j)) : firAt u n i = firAt v n (n - 1 - i) := by
  have hn : 0 < n := by omega
  have tap : ∀ a b : Int, a + b = n - 1 → u (clampIdx a n) = v (clampIdx b n) := by
    intro a b hab
    rw [huv _ (clampIdx_lt a hn), clampIdx_mirror hn hab]
  have hsum : firSum u n i = firSum v n (n - 1 - i) := by
    rw [firSum_eq, firSum_eq, tap (i - 2) ((n - 1 - i : Nat) + 2) (by omega),
      tap (i - 1) ((n - 1 - i : Nat) + 1) (by omega), tap i (n - 1 - i : Nat) (by omega),
      tap (i + 1) ((n - 1 - i : Nat) - 1) (by omega),
      tap (i + 2) ((n - 1 - i : Nat) - 2) (by omega)]
    omega
  unfold firAt
  rw [hsum]

/-- Settles O38. -/
theorem firIsMirrorSymmetric : Obligations.FirIsMirrorSymmetric := by
  intro v
  refine List.ext_getElem (by simp) fun i hrev _ => ?_
  have hi : i < v.length := by simpa using hrev
  have hmir : firAt (fun j => v.reverse.getD j 0) v.length i =
      firAt (fun j => v.getD j 0) v.length (v.length - 1 - i) :=
    firAt_mirror hi fun j hj => congrFun (List.getD_reverse j hj) 0
  simpa [fir1d] using hmir

/-! ### The two passes (R115, R116) -/

section
variable {h w r c : Nat}

theorem hblurPlane_getElem? (luma : Nat → Nat → Byte) (hr : r < h) (hc : c < w) :
    (hblurPlane h w luma)[rowMajor w r c]? = some (firAt (luma r) w c) :=
  grid_getElem? _ hr hc

theorem blurPlane_getElem? (hblur : Nat → Nat → Byte) (hr : r < h) (hc : c < w) :
    (blurPlane h w hblur)[rowMajor w r c]? = some (firAt (fun j => hblur j c) h r) :=
  grid_getElem? _ hr hc

end

/-- Settles O39: the pass filters row r of LUMA at column c. -/
theorem gaussHFiltersTheRows : Obligations.GaussHFiltersTheRows := by
  intro s hfit
  have hlen : (hblurPlane s.h s.w s.lumaAt).length = s.pixels :=
    (length_hblurPlane _).trans (Nat.mul_comm _ _)
  exact ⟨_, passPhase_eq _ _ hfit, hlen, rfl, fun r c hr hc =>
    ⟨_, hblurPlane_getElem? _ hr hc, toNat_firAt_of_lt _ hc⟩⟩

/-- Settles O40: the pass filters column c of HBLUR at row r. -/
theorem gaussVFiltersTheColumns : Obligations.GaussVFiltersTheColumns := by
  intro s hfit
  have hlen : (blurPlane s.h s.w s.hblurAt).length = s.pixels :=
    (length_blurPlane _).trans (Nat.mul_comm _ _)
  exact ⟨_, passPhase_eq _ _ hfit, hlen, rfl, fun r c hr hc =>
    ⟨_, blurPlane_getElem? _ hr hc, toNat_firAt_of_lt (fun j => s.hblurAt j c) hr⟩⟩

end Sys2Proof.Machine
end

section
/-! The Canny edge detector pixel by pixel: the Sobel gradient and its L1 magnitude, the direction, the
keep condition and its ties, and the classes (43_canny.md R126 to R137). -/

namespace Sys2Proof.Machine

/-- A plane of H rows and W columns holds W·H elements (20_memory.md R44). -/
theorem length_eq_pixels {α : Type} {s : State} {p : List α} (hp : p.length = s.h * s.w) :
    p.length = s.pixels :=
  hp.trans (Nat.mul_comm _ _)

/-! ### The gradient (R126, R127, R129) -/

section
variable {h w r c : Nat} (blur : Nat → Nat → Byte)

theorem gxPlane_getElem? (hr : r < h) (hc : c < w) :
    (gxPlane h w blur)[rowMajor w r c]? =
      some (BitVec.ofInt 11 (sobelX (replicated h w blur) r c)) :=
  grid_getElem? _ hr hc

theorem gyPlane_getElem? (hr : r < h) (hc : c < w) :
    (gyPlane h w blur)[rowMajor w r c]? =
      some (BitVec.ofInt 11 (sobelY (replicated h w blur) r c)) :=
  grid_getElem? _ hr hc

theorem magPlane_getElem? (hr : r < h) (hc : c < w) :
    (magPlane h w blur)[rowMajor w r c]? =
      some (BitVec.ofNat Config.magWidth (magnitude Config.magNorm
        (sobelX (replicated h w blur) r c) (sobelY (replicated h w blur) r c))) :=
  grid_getElem? _ hr hc

end

/-- The L1 magnitude of components in range is stored in u11 without loss (R129). -/
theorem toNat_ofNat_magnitude {x y : Int} (hx : -1020 ≤ x ∧ x ≤ 1020) (hy : -1020 ≤ y ∧ y ≤ 1020) :
    (BitVec.ofNat Config.magWidth (magnitude Config.magNorm x y)).toNat = x.natAbs + y.natAbs := by
  have hfits : x.natAbs + y.natAbs < 2 ^ 11 := by omega
  exact Nat.mod_eq_of_lt hfits

/-- Settles O41: no component exceeds 1020 in absolute value, so GX and GY hold the differences of R126
and MAG their L1 magnitude without loss. -/
theorem gradComputesSobelAndL1 : Obligations.GradComputesSobelAndL1 := by
  intro s hfit
  refine ⟨_, passPhase_eq _ _ hfit, length_eq_pixels (length_gxPlane _),
    length_eq_pixels (length_gyPlane _), length_eq_pixels (length_magPlane _), rfl,
    fun r c hr hc => ⟨_, _, _, gxPlane_getElem? _ hr hc, gyPlane_getElem? _ hr hc,
      magPlane_getElem? _ hr hc, ?_⟩⟩
  have hx := sobelX_range s.h s.w s.blurAt r c
  have hy := sobelY_range s.h s.w s.blurAt r c
  rw [toInt_ofInt_s11 hx.1 hx.2, toInt_ofInt_s11 hy.1 hy.2, toNat_ofNat_magnitude hx hy]
  refine ⟨?_, ?_, by simp only [Nat.cast_add, Int.natCast_natAbs], hx.1, hx.2, hy.1, hy.2, by omega⟩
  · simp only [sobelX, replicated, sub_eq_add_neg, add_zero]
  · simp only [sobelY, replicated, sub_eq_add_neg, add_zero]

/-! ### The direction (R131) -/

/-- DIR with its comparisons in plain integers. -/
theorem direction_eq (gx gy : Int) :
    direction gx gy =
      if |gy| * 32768 < |gx| * 13573 then .row
      else if |gx| * 79109 < |gy| * 32768 then .column
      else if gx < 0 ↔ gy < 0 then .mainDiag else .antiDiag := by
  have hsum : |gx| * 13573 + |gx| * (2 * 32768) = |gx| * 79109 := by ring
  simp only [direction, Int.natCast_natAbs, Config.tan22, Config.tanOne, hsum, eq_iff_iff]

/-- The factors of the comparisons share no divisor with 32768, so a tie makes `a` a multiple of it, which
up to 1020 only 0 is. -/
theorem eq_zero_of_tie {a b k : Int} (h0 : 0 ≤ a) (h1 : a ≤ 1020) (hk : IsCoprime 32768 k)
    (htie : b * 32768 = a * k) : a = 0 := by
  have hdvd : 32768 ∣ a := hk.dvd_of_dvd_mul_right (htie ▸ Dvd.intro_left b rfl)
  omega

/-- Settles O42. -/
theorem directionQuantisesTheGradient : Obligations.DirectionQuantisesTheGradient := by
  intro gx gy
  rw [direction_eq]
  refine ⟨fun hrow => if_pos hrow, fun hrow hcol => ?_, fun hrow hcol => ?_, fun hx hy htie => ?_⟩
  · rw [if_neg hrow.not_gt, if_pos hcol]
  · rw [if_neg hrow.not_gt, if_neg hcol.not_gt]
  · have hgx : |gx| = 0 := htie.elim
      (eq_zero_of_tie (abs_nonneg gx) hx (Int.isCoprime_iff_gcd_eq_one.2 (by decide)))
      (eq_zero_of_tie (abs_nonneg gx) hx (Int.isCoprime_iff_gcd_eq_one.2 (by decide)))
    have hgy : |gy| = 0 := by omega
    exact ⟨abs_eq_zero.1 hgx, abs_eq_zero.1 hgy⟩

/-! ### Non-maximum suppression (R132, R133, R135) -/

section
variable {h w : Nat} {mag : Nat → Nat → Nat} {d : Dir} {r c r' c' : Nat}

theorem isKept_iff :
    isKept h w mag d r c = true ↔
      magOutsideZero h w mag (neighbour1 d r c) < mag r c ∧
        magOutsideZero h w mag (neighbour2 d r c) ≤ mag r c := by
  simp only [isKept, Bool.and_eq_true, decide_eq_true_eq]

theorem isKept_eq_false_of_le (hle : mag r c ≤ magOutsideZero h w mag (neighbour1 d r c)) :
    isKept h w mag d r c = false :=
  Bool.eq_false_iff.2 fun hk => hle.not_gt (isKept_iff.1 hk).1

theorem nmskPlane_getElem? (gx gy : Nat → Nat → Int) (hr : r < h) (hc : c < w) :
    (nmskPlane h w gx gy mag)[rowMajor w r c]? =
      some (isKept h w mag (direction (gx r c) (gy r c)) r c) :=
  grid_getElem? _ hr hc

/-- A magnitude read inside the plane is the plane's. -/
theorem magOutsideZero_inside (hr : r < h) (hc : c < w) :
    magOutsideZero h w mag ((r : Int), (c : Int)) = mag r c := by
  rw [magOutsideZero_eq, if_pos (by omega), Int.toNat_natCast, Int.toNat_natCast]

/-- The two neighbours mirror each other: a pixel is the second neighbour of its first (R132). -/
theorem neighbour2_of_neighbour1 (hn : neighbour1 d r c = ((r' : Int), (c' : Int))) :
    neighbour2 d r' c' = ((r : Int), (c : Int)) := by
  cases d <;> simp only [neighbour1, neighbour2, Prod.mk.injEq] at hn ⊢ <;> omega

/-- The first neighbour stands in the row before, or before the pixel in its own row (R132). -/
theorem row_lt_or_column_lt_of_neighbour1 (hn : neighbour1 d r c = ((r' : Int), (c' : Int))) :
    r' < r ∨ r' = r ∧ c' < c := by
  cases d <;> simp only [neighbour1, Prod.mk.injEq] at hn <;> omega

/-- The first neighbour has the smaller index (R132). -/
theorem rowMajor_lt_of_neighbour1 (hc' : c' < w)
    (hn : neighbour1 d r c = ((r' : Int), (c' : Int))) : rowMajor w r' c' < rowMajor w r c := by
  rcases row_lt_or_column_lt_of_neighbour1 hn with hrow | ⟨rfl, hcol⟩
  · exact (rowMajor_lt hrow hc').trans_le (Nat.le_add_right _ _)
  · exact Nat.add_lt_add_left hcol _

end

/-- Settles O43: outside the plane a magnitude is 0, and each direction names its two neighbours. -/
theorem nmsKeepsLocalMaxima : Obligations.NmsKeepsLocalMaxima := by
  intro s hfit
  refine ⟨_, passPhase_eq _ _ hfit, length_eq_pixels (length_nmskPlane _ _ _), rfl,
    fun r c hr hc => ⟨_, nmskPlane_getElem? _ _ hr hc, ?_⟩⟩
  cases direction (s.gxAt r c) (s.gyAt r c) <;>
    simp only [isKept_iff, neighbour1, neighbour2, magOutsideZero_eq]

/-- Settles O44: of two equal pixels the one with the smaller index sees the other as its second
neighbour, where equality is allowed, and the other sees it as its first, where it is not. -/
theorem tiesKeepTheSmallerIndex : Obligations.TiesKeepTheSmallerIndex := by
  intro h w mag d r c r' c' hr hc hr' hc'
  refine ⟨isKept_iff, fun hn htie hfirst _ =>
    ⟨?_, ?_, rowMajor_lt_of_neighbour1 hc' hn⟩, fun h0 => ?_⟩
  · refine isKept_iff.2 ⟨hfirst, ?_⟩
    rw [neighbour2_of_neighbour1 hn, magOutsideZero_inside hr hc, htie]
  · refine isKept_eq_false_of_le ?_
    rw [hn, magOutsideZero_inside hr' hc', htie]
  · exact isKept_eq_false_of_le (h0 ▸ Nat.zero_le _)

/-! ### The classes (R137) -/

theorem clsPlane_getElem? {h w r c : Nat} (mag : Nat → Nat → Nat) (nmsk : Nat → Nat → Bool)
    (hr : r < h) (hc : c < w) :
    (clsPlane h w mag nmsk)[rowMajor w r c]? = some (classOf Config.magNorm (nmsk r c) (mag r c)) :=
  grid_getElem? _ hr hc

/-- Settles O45. -/
theorem classifySortsByTheThresholds : Obligations.ClassifySortsByTheThresholds := by
  intro s hfit
  refine ⟨_, passPhase_eq _ _ hfit, length_eq_pixels (length_clsPlane _ _), rfl,
    fun r c hr hc => ⟨_, clsPlane_getElem? _ _ hr hc, ?_⟩⟩
  rw [classOf_l1]
  refine ⟨fun hk => if_pos hk, fun hk hlow => ?_, fun hk hlow hhigh => ?_, fun hk hhigh => ?_⟩
  · rw [if_neg (ne_false_of_eq_true hk), if_pos hlow]
  · rw [if_neg (ne_false_of_eq_true hk), if_neg hlow.not_gt, if_neg hhigh.not_gt]
  · rw [if_neg (ne_false_of_eq_true hk), if_neg (by omega), if_pos hhigh]

end Sys2Proof.Machine
end

section
/-! Hysteresis: the repeated sweep reaches, within W·H sweeps, the smallest set of 43_canny.md R138. -/

namespace Sys2Proof.Machine

variable {h w : Nat} {cls : Nat → Nat → Cls} {edge : List Bool}

/-! ### What one sweep does (R138) -/

/-- An index of the plane is the index of a pixel (20_memory.md R45). -/
theorem exists_pixel_of_lt {i : Nat} (hi : i < h * w) :
    ∃ r c, r < h ∧ c < w ∧ rowMajor w r c = i := by
  have hw : 0 < w := Nat.pos_of_ne_zero (by rintro rfl; simp at hi)
  exact ⟨i / w, i % w, Nat.div_lt_of_lt_mul (by rwa [Nat.mul_comm]), Nat.mod_lt _ hw,
    Nat.div_add_mod' i w⟩

/-- A sweep takes no pixel away. -/
theorem getD_hystSweep_of_getD {i : Nat} (hi : i < h * w) (he : edge.getD i false = true) :
    (hystSweep h w cls edge).getD i false = true := by
  obtain ⟨r, c, hr, hc, rfl⟩ := exists_pixel_of_lt hi
  rw [hystSweep_getD hr hc, he, Bool.true_or]

/-- What every sweep keeps holds after all of them. -/
theorem hystClose_induct {P : List Bool → Prop} (hsweep : ∀ e, P e → P (hystSweep h w cls e))
    (n : Nat) (he : P edge) : P (hystClose h w cls n edge) := by
  induction n generalizing edge with
  | zero => exact he
  | succ n ih =>
    unfold hystClose
    dsimp only
    split
    · exact he
    · exact ih (hsweep edge he)

/-! ### The sweeps end (R139) -/

/-- The indices of the plane that are edges. -/
def edgeIndices (h w : Nat) (edge : List Bool) : Finset Nat :=
  (Finset.range (h * w)).filter fun i => edge.getD i false = true

theorem mem_edgeIndices {i : Nat} :
    i ∈ edgeIndices h w edge ↔ i < h * w ∧ edge.getD i false = true := by
  simp only [edgeIndices, Finset.mem_filter, Finset.mem_range]

theorem card_edgeIndices_le : (edgeIndices h w edge).card ≤ h * w :=
  (Finset.card_filter_le _ _).trans_eq (Finset.card_range _)

theorem edgeIndices_subset_hystSweep :
    edgeIndices h w edge ⊆ edgeIndices h w (hystSweep h w cls edge) := by
  intro i hi
  obtain ⟨hlt, he⟩ := mem_edgeIndices.1 hi
  exact mem_edgeIndices.2 ⟨hlt, getD_hystSweep_of_getD hlt he⟩

/-- A plane is known by its edge indices. -/
theorem eq_of_edgeIndices_eq {edge' : List Bool} (hl : edge.length = h * w)
    (hl' : edge'.length = h * w) (heq : edgeIndices h w edge = edgeIndices h w edge') :
    edge = edge' := by
  refine List.ext_getElem (hl.trans hl'.symm) fun i hi hi' => Bool.eq_iff_iff.2 ?_
  have hmem : i ∈ edgeIndices h w edge ↔ i ∈ edgeIndices h w edge' := by rw [heq]
  have hlt : i < h * w := hl ▸ hi
  simpa [mem_edgeIndices, hlt, List.getD_eq_getElem, hi, hi'] using hmem

/-- A sweep that adds no pixel changes nothing. -/
theorem hystSweep_eq_of_card_le (hl : edge.length = h * w)
    (hcard : (edgeIndices h w (hystSweep h w cls edge)).card ≤ (edgeIndices h w edge).card) :
    hystSweep h w cls edge = edge :=
  (eq_of_edgeIndices_eq hl (length_hystSweep cls edge)
    (Finset.eq_of_subset_of_card_le edgeIndices_subset_hystSweep hcard)).symm

/-- Every sweep but the last adds a pixel, so as many sweeps as the plane has further pixels reach a
plane that a sweep leaves as it is. -/
theorem hystSweep_hystClose (n : Nat) (hl : edge.length = h * w)
    (hn : h * w ≤ n + (edgeIndices h w edge).card) :
    hystSweep h w cls (hystClose h w cls n edge) = hystClose h w cls n edge := by
  induction n generalizing edge with
  | zero =>
    have hfull : h * w ≤ (edgeIndices h w edge).card := by omega
    exact hystSweep_eq_of_card_le hl (card_edgeIndices_le.trans hfull)
  | succ n ih =>
    unfold hystClose
    dsimp only
    split
    · assumption
    · next hne =>
      have hgrow : (edgeIndices h w edge).card <
          (edgeIndices h w (hystSweep h w cls edge)).card :=
        not_le.1 fun hle => hne (hystSweep_eq_of_card_le hl hle)
      exact ih (length_hystSweep cls edge) (by omega)

theorem hystSweep_edgePlane (cls : Nat → Nat → Cls) :
    hystSweep h w cls (edgePlane h w cls) = edgePlane h w cls :=
  hystSweep_hystClose _ (length_strongPixels cls) (Nat.le_add_right _ _)

/-! ### EDGE is the smallest set (R138) -/

/-- Every edge of a plane lies in the smallest set. -/
def EdgesInSet (h w : Nat) (cls : Nat → Nat → Cls) (edge : List Bool) : Prop :=
  ∀ r c, r < h → c < w → edge.getD (rowMajor w r c) false = true → EdgeSet h w cls r c

theorem edgesInSet_strongPixels : EdgesInSet h w cls (strongPixels h w cls) := by
  intro r c hr hc he
  rw [strongPixels, grid_getD _ hr hc, decide_eq_true_eq] at he
  exact .strong hr hc he

theorem edgesInSet_hystSweep (hin : EdgesInSet h w cls edge) :
    EdgesInSet h w cls (hystSweep h w cls edge) := by
  intro r c hr hc he
  rw [hystSweep_getD hr hc, Bool.or_eq_true, Bool.and_eq_true, decide_eq_true_eq] at he
  rcases he with hold | ⟨hweak, hnew⟩
  · exact hin r c hr hc hold
  · obtain ⟨r', c', hr', hc', hadj, he'⟩ := (hasEdgeNeighbour_iff edge r c).1 hnew
    exact .weak hr hc hweak (hin r' c' hr' hc' he') hadj

theorem edgesInSet_edgePlane (cls : Nat → Nat → Cls) : EdgesInSet h w cls (edgePlane h w cls) :=
  hystClose_induct (P := EdgesInSet h w cls) (fun _ => edgesInSet_hystSweep) _
    edgesInSet_strongPixels

theorem edgePlane_of_strong {r c : Nat} (hr : r < h) (hc : c < w) (hs : cls r c = .strong) :
    (edgePlane h w cls).getD (rowMajor w r c) false = true := by
  refine hystClose_induct (P := fun e => e.getD (rowMajor w r c) false = true)
    (fun e he => getD_hystSweep_of_getD (rowMajor_lt hr hc) he) _ ?_
  rw [strongPixels, grid_getD _ hr hc, hs, decide_eq_true rfl]

theorem edgeSet_inPlane {r c : Nat} (he : EdgeSet h w cls r c) : r < h ∧ c < w := by
  cases he with
  | strong hr hc _ => exact ⟨hr, hc⟩
  | weak hr hc _ _ _ => exact ⟨hr, hc⟩

/-- The smallest set lies in EDGE, which holds the strong pixels and which a sweep leaves as it is. -/
theorem edgePlane_of_edgeSet {r c : Nat} (he : EdgeSet h w cls r c) :
    (edgePlane h w cls).getD (rowMajor w r c) false = true := by
  induction he with
  | strong hr hc hs => exact edgePlane_of_strong hr hc hs
  | @weak r c r' c' hr hc hk hn ha ih =>
    obtain ⟨hr', hc'⟩ := edgeSet_inPlane hn
    have hnb : hasEdgeNeighbour h w (edgePlane h w cls) r c = true :=
      (hasEdgeNeighbour_iff _ r c).2 ⟨r', c', hr', hc', ha, ih⟩
    rw [← hystSweep_edgePlane, hystSweep_getD hr hc, hnb, hk]
    simp

theorem getD_edgePlane_iff {r c : Nat} (hr : r < h) (hc : c < w) :
    (edgePlane h w cls).getD (rowMajor w r c) false = true ↔ EdgeSet h w cls r c :=
  ⟨edgesInSet_edgePlane cls r c hr hc, edgePlane_of_edgeSet⟩

theorem getElem?_eq_some_true_iff (edge : List Bool) (i : Nat) :
    edge[i]? = some true ↔ edge.getD i false = true := by
  rw [List.getD_eq_getElem?_getD]
  cases edge[i]? <;> simp

/-- Settles O46. -/
theorem hystIsTheLeastConnectedSet : Obligations.HystIsTheLeastConnectedSet := by
  intro s hfit
  exact ⟨_, passPhase_eq _ _ hfit, length_eq_pixels (length_edgePlane _), rfl, fun r c hr hc =>
    (getElem?_eq_some_true_iff _ _).trans (getD_edgePlane_iff hr hc)⟩

/-! ### No strong pixel -/

/-- Every chain of the smallest set starts at a strong pixel. -/
theorem exists_strong_of_edgeSet {r c : Nat} (he : EdgeSet h w cls r c) :
    ∃ r' c', r' < h ∧ c' < w ∧ cls r' c' = .strong := by
  induction he with
  | @strong r c hr hc hs => exact ⟨r, c, hr, hc, hs⟩
  | weak _ _ _ _ _ ih => exact ih

/-- Settles O47: an edge would lie in the smallest set, which has no pixel without a strong one. -/
theorem noStrongPixelNoEdge : Obligations.NoStrongPixelNoEdge := by
  intro h w cls hweak
  refine List.eq_replicate_iff.2 ⟨length_edgePlane cls, fun b hb => ?_⟩
  obtain ⟨i, hi⟩ := List.mem_iff_getElem?.1 hb
  have hlt : i < h * w := by
    rw [← length_edgePlane cls]
    exact (List.getElem?_eq_some_iff.1 hi).1
  obtain ⟨r, c, hr, hc, rfl⟩ := exists_pixel_of_lt hlt
  cases b with
  | false => rfl
  | true =>
    have hin : EdgeSet h w cls r c :=
      (getD_edgePlane_iff hr hc).1 ((getElem?_eq_some_true_iff _ _).1 hi)
    obtain ⟨r', c', hr', hc', hs⟩ := exists_strong_of_edgeSet hin
    exact absurd hs (hweak r' c' hr' hc')

end Sys2Proof.Machine
end

section
/-! What engine operations leave alone, FLATTEN, and the whole call as `processFrame` (44_flatten.md R150 to
R154). -/

namespace Sys2Proof.Machine

variable {s t : State}

/-! ### What EXTRACT to HYST write (10_state.md R20) -/

/-- The answers of EXTRACT to HYST: each writes its own plane stores, whatever the values, and PHASE; EXTRACT
ends the record of raced bytes (log 7). -/
inductive StoreMove (s : State) : Instr → State → Prop
  | extract (p : List Byte) (q : Phase) (d : Nat) : StoreMove s .extract
      { s with planes := { s.planes with luma := p }, raced := [], phase := q, draws := d }
  | gaussH (p : List Byte) (q : Phase) (d : Nat) : StoreMove s .gaussH
      { s with planes := { s.planes with hblur := p }, phase := q, draws := d }
  | gaussV (p : List Byte) (q : Phase) (d : Nat) : StoreMove s .gaussV
      { s with planes := { s.planes with blur := p }, phase := q, draws := d }
  | grad (x y : List (BitVec 11)) (m : List (BitVec Config.magWidth)) (q : Phase) (d : Nat) :
      StoreMove s .grad
        { s with planes := { s.planes with gx := x, gy := y, mag := m }, phase := q, draws := d }
  | nms (p : List Bool) (q : Phase) (d : Nat) : StoreMove s .nms
      { s with planes := { s.planes with nmsk := p }, phase := q, draws := d }
  | classify (p : List Cls) (q : Phase) (d : Nat) : StoreMove s .classify
      { s with planes := { s.planes with cls := p }, phase := q, draws := d }
  | hyst (p : List Bool) (q : Phase) (d : Nat) : StoreMove s .hyst
      { s with planes := { s.planes with edge := p }, phase := q, draws := d }

/-- EXTRACT, where it answers, has passed its phase with no byte raced any more (41_validate_extract.md
R104). -/
theorem storeMove_of_execExtract (h : execExtract s = .next t) : StoreMove s .extract t := by
  unfold execExtract at h
  split at h
  · obtain ⟨-, rfl⟩ := passPhase_next h
    exact .extract _ _ _
  · cases h

/-- The answer of one of EXTRACT to HYST. -/
theorem storeMove_of_exec {i : Instr}
    (hi : i ∈ [Instr.extract, .gaussH, .gaussV, .grad, .nms, .classify, .hyst])
    (h : exec i s = .next t) : StoreMove s i t := by
  simp only [List.mem_cons, List.not_mem_nil, or_false] at hi
  rcases hi with rfl | rfl | rfl | rfl | rfl | rfl | rfl
  · exact storeMove_of_execExtract h
  · obtain ⟨-, rfl⟩ := passPhase_next h; exact .gaussH _ _ _
  · obtain ⟨-, rfl⟩ := passPhase_next h; exact .gaussV _ _ _
  · obtain ⟨-, rfl⟩ := passPhase_next h; exact .grad _ _ _ _ _
  · obtain ⟨-, rfl⟩ := passPhase_next h; exact .nms _ _ _
  · obtain ⟨-, rfl⟩ := passPhase_next h; exact .classify _ _ _
  · obtain ⟨-, rfl⟩ := passPhase_next h; exact .hyst _ _ _

/-- Registers, flags, memories and what the outside gives stay (R154). -/
theorem StoreMove.keeps_registers_and_memories {i : Instr} (hm : StoreMove s i t) :
    SameOperands s t ∧ SameResults s t ∧ SameFlags s t ∧ SameHost s t ∧ SameSrc s t ∧
      SameDst s t ∧ t.replies = s.replies := by
  cases hm <;>
    exact ⟨⟨rfl, rfl, rfl⟩, ⟨rfl, rfl⟩, ⟨rfl, rfl, rfl⟩, ⟨rfl, rfl⟩, ⟨fun _ => rfl, rfl⟩,
      fun _ => rfl, rfl⟩

/-- A plane store changes under the operation that writes it only (10_state.md R20). -/
theorem StoreMove.keeps_other_stores {i : Instr} (hm : StoreMove s i t) :
    (i ≠ .extract → t.planes.luma = s.planes.luma ∧ t.raced = s.raced) ∧
    (i ≠ .gaussH → t.planes.hblur = s.planes.hblur) ∧
    (i ≠ .gaussV → t.planes.blur = s.planes.blur) ∧
    (i ≠ .grad → t.planes.gx = s.planes.gx ∧ t.planes.gy = s.planes.gy ∧
      t.planes.mag = s.planes.mag) ∧
    (i ≠ .nms → t.planes.nmsk = s.planes.nmsk) ∧
    (i ≠ .classify → t.planes.cls = s.planes.cls) ∧
    (i ≠ .hyst → t.planes.edge = s.planes.edge) := by
  cases hm <;> simp

/-- Settles O28. -/
theorem engineFrame : Obligations.EngineFrame := by
  intro s t i hi h
  have hm : StoreMove s i t := storeMove_of_exec hi h
  obtain ⟨hops, hres, hflags, hhost, hsrc, hdst, hreplies⟩ := hm.keeps_registers_and_memories
  exact ⟨hops, hres, hflags, hhost, hsrc, hdst, hreplies, hm.keeps_other_stores⟩

/-! ### What every engine step leaves alone (R154) -/

/-- With no host event due, the step of a running call is the engine's (20_memory.md R53; log 2). -/
theorem engineMove_of_step (h : step s = .next t)
    (hgap : ∀ a rest, s.inbox = a :: rest → a.gap ≠ 0) (hb : s.busy = true) :
    ∃ l, EngineMove { s with inbox := l } t := by
  rcases step_cases s with ⟨a, rest, hi, hdue, -⟩ | ⟨-, -, hs⟩ | ⟨hf, -⟩
  · simp [hgap a rest hi, hb] at hdue
  · obtain ⟨l, hl⟩ := passGap_eq s
    rw [hs, hl] at h
    exact ⟨l, engineMove_of_engineStep hb h⟩
  · simp [hb] at hf

/-- No engine operation changes SRC, the operands, the flags, the capacities or the values returned. -/
theorem EngineMove.keeps_host_state (hm : EngineMove s t) :
    SameSrc s t ∧ SameOperands s t ∧ SameFlags s t ∧ t.caps = s.caps ∧ t.replies = s.replies := by
  cases hm <;> exact ⟨⟨fun _ => rfl, rfl⟩, ⟨rfl, rfl, rfl⟩, ⟨rfl, rfl, rfl⟩, rfl, rfl⟩

/-- Only FLATTEN writes DST (10_state.md R23). -/
theorem EngineMove.keeps_dst (hm : EngineMove s t) (hp : s.phase ≠ .flatten) : SameDst s t := by
  cases hm with
  | flatten hf => exact absurd hf hp
  | _ => exact fun _ => rfl

/-- Settles O59: what SRCRD returns is fixed by the bytes written and the resets. -/
theorem engineLeavesTheHostsStateAlone : Obligations.EngineLeavesTheHostsStateAlone := by
  intro s t h hgap hb
  obtain ⟨l, hm⟩ := engineMove_of_step h hgap hb
  obtain ⟨hsrc, hops, hflags, hcaps, hreplies⟩ := hm.keeps_host_state
  exact ⟨hsrc, fun i => srcByte_congr hsrc.2 (hsrc.1 i), hops, hflags, hcaps, hreplies,
    hm.keeps_dst⟩

/-! ### FLATTEN (R150, R151) -/

/-- OUT_LEN holds W·H without loss where the frame fits DST (10_state.md R12). -/
theorem toNat_ofNat_pixels (hc : s.caps.Wf) (hfit : s.pixels ≤ s.caps.maxPixels) :
    (BitVec.ofNat 32 s.pixels).toNat = s.pixels := by
  obtain ⟨-, hle, hlt⟩ := hc
  exact (BitVec.toNat_ofNat _ _).trans (Nat.mod_eq_of_lt (by omega))

/-- DST after a sequence of W·H bytes is written to it: the sequence, and the bytes above it as before. -/
theorem read_writeFrom_pixels (m : Memory) {out : List Byte} (hlen : out.length = s.pixels) :
    (∀ i, i < s.pixels → (m.writeFrom 0 out).read i = out[i]?) ∧
      ∀ i, s.pixels ≤ i → (m.writeFrom 0 out).read i = m.read i :=
  ⟨fun _ hi => (Memory.read_writeFrom _ _ _ _).trans (if_pos (by omega)),
    fun _ hi => (Memory.read_writeFrom _ _ _ _).trans (if_neg (by omega))⟩

/-- Settles O48: FLATTEN writes the EdgeMap, whose element [r][c] is the byte of EDGE[r][c], from index 0
on. -/
theorem flattenWritesTheEdgeMap : Obligations.FlattenWritesTheEdgeMap := by
  intro s hc hfit
  obtain ⟨hin, habove⟩ := read_writeFrom_pixels (s := s) s.dst
    (length_eq_pixels (length_edgeMap s.edgeAt))
  exact ⟨_, execFlatten_eq hfit, toNat_ofNat_pixels hc hfit,
    fun r c hr hcol => (hin _ (rowMajor_lt_pixels hr hcol)).trans (grid_getElem? _ hr hcol),
    habove, rfl⟩

/-! ### processFrame (R152, R153) -/

section
variable {n l : Nat} {buf : Nat → Byte} {w h : Int} {out : List Byte}

theorem processFrame_of_error {e : ErrCode} (he : validateError n w h l = some e) :
    processFrame n buf l w h = .error e := by
  unfold processFrame; rw [he]

theorem processFrame_of_pass (he : validateError n w h l = none) :
    processFrame n buf l w h =
      .ok (edgeMapOf h.toNat w.toNat fun r c => buf (rowMajor w.toNat r c)) := by
  unfold processFrame; rw [he]

/-- The pixels of a frame of at least one row and column, counted in integers. -/
theorem toNat_mul_toNat_cast (hw : 0 < w) (hh : 0 < h) :
    ((h.toNat * w.toNat : Nat) : Int) = w * h := by
  rw [Nat.cast_mul, Int.toNat_of_nonneg hh.le, Int.toNat_of_nonneg hw.le, mul_comm]

/-- `processFrame` gives a sequence for a frame of at least one row and column, and it is the EdgeMap of the
luma plane (41_validate_extract.md R100, 44_flatten.md R152). -/
theorem eq_edgeMapOf_of_processFrame (hout : processFrame n buf l w h = .ok out) :
    0 < w ∧ 0 < h ∧ out = edgeMapOf h.toNat w.toNat fun r c => buf (rowMajor w.toNat r c) := by
  rcases validateError_cases n w h l with
    ⟨-, he⟩ | ⟨-, -, -, he⟩ | ⟨-, -, -, -, he⟩ | ⟨hw, hh, -, -, he⟩
  · rw [processFrame_of_error he] at hout; cases hout
  · rw [processFrame_of_error he] at hout; cases hout
  · rw [processFrame_of_error he] at hout; cases hout
  · rw [processFrame_of_pass he] at hout; cases hout; exact ⟨hw, hh, rfl⟩

end

section
variable {h w : Nat}

@[simp] theorem length_edgeMapOf (luma : Nat → Nat → Byte) :
    (edgeMapOf h w luma).length = h * w :=
  length_edgeMap _

/-- Every byte of an EdgeMap is 0 or 255 (20_memory.md R47). -/
theorem edgeMapOf_binary (luma : Nat → Nat → Byte) : ∀ b ∈ edgeMapOf h w luma, b = 0 ∨ b = 255 := by
  intro b hb
  obtain ⟨i, hi⟩ := List.mem_iff_getElem?.1 hb
  have hlt : i < h * w := by
    rw [← length_edgeMapOf luma]
    exact (List.getElem?_eq_some_iff.1 hi).1
  have hbyte : (edgeMapOf h w luma)[i]? = some 0 ∨ (edgeMapOf h w luma)[i]? = some 255 :=
    edgeMap_getElem? _ hlt
  simpa only [hi, Option.some_inj] using hbyte

end

/-- Settles O52. -/
theorem edgeMapIsBinaryAndFull : Obligations.EdgeMapIsBinaryAndFull := by
  intro maxPixels buf l w h out hout
  obtain ⟨hw, hh, rfl⟩ := eq_edgeMapOf_of_processFrame hout
  rw [length_edgeMapOf]
  exact ⟨toNat_mul_toNat_cast hw hh, edgeMapOf_binary _⟩

/-- Settles O50: VALIDATE's checks decide both the call and `processFrame`; a refused call rests in FAILED, a
passing one ends in `afterCall`. -/
theorem callComputesProcessFrame : Obligations.CallComputesProcessFrame := by
  intro s hp hi hr hc
  cases he : validateError s.caps.maxPixels s.wInt s.hInt s.len with
  | some e =>
    rw [processFrame_of_error he]
    exact ⟨s.raise e, run_failing_call 8 hp hi he, ⟨rfl, rfl, rfl⟩, ⟨rfl, rfl, rfl⟩,
      ⟨fun _ => rfl, rfl⟩, rfl, rfl, rfl, fun _ => rfl⟩
  | none =>
    rw [processFrame_of_pass he]
    obtain ⟨-, -, -, hfit⟩ := frame_of_validateError_none he
    have hlen : (edgeMapOf s.h s.w fun r c => s.srcByte (rowMajor s.w r c)).length = s.pixels :=
      length_eq_pixels (length_edgeMapOf _)
    obtain ⟨hin, habove⟩ := read_writeFrom_pixels s.dst hlen
    exact ⟨s.afterCall, run_passing_call hp hi hr hc he, ⟨rfl, rfl, rfl⟩, ⟨rfl, rfl, rfl⟩,
      ⟨fun _ => rfl, rfl⟩, rfl, rfl, (toNat_ofNat_pixels hc hfit).trans hlen.symm, hlen, hin, habove⟩

/-! ### A frame of one luma value (R153, 43_canny.md R140) -/

section
variable {h w : Nat} {x : Byte} {p : Nat → Nat → Byte}

/-- Every pixel of the plane has the value `x`. -/
def ConstantOn {α : Type} (h w : Nat) (p : Nat → Nat → α) (x : α) : Prop :=
  ∀ r c, r < h → c < w → p r c = x

/-- The filter keeps a constant sequence: a window of one value bounds its output from both sides
(42_gaussian_fir.md R117). -/
theorem firAt_of_constant {v : Nat → Byte} {n : Nat} (i : Nat) (hn : 0 < n)
    (hv : ∀ j, j < n → v j = x) : firAt v n i = x := by
  have hwin : x.toNat ≤ (firAt v n i).toNat ∧ (firAt v n i).toNat ≤ x.toNat :=
    firStaysWithinItsWindow v n i x.toNat x.toNat fun k _ _ => by
      rw [hv _ (clampIdx_lt _ hn)]; exact ⟨le_rfl, le_rfl⟩
  exact BitVec.eq_of_toNat_eq (le_antisymm hwin.2 hwin.1)

theorem constantOn_hblurPlane (hp : ConstantOn h w p x) :
    ConstantOn h w (written w (hblurPlane h w p)) x := by
  intro r c hr hc
  rw [hblurPlane, written_grid _ hr hc]
  exact firAt_of_constant c (by omega) fun j hj => hp r j hr hj

theorem constantOn_blurPlane (hp : ConstantOn h w p x) :
    ConstantOn h w (written w (blurPlane h w p)) x := by
  intro r c hr hc
  rw [blurPlane, written_grid _ hr hc]
  exact firAt_of_constant r (by omega) fun j hj => hp j c hj hc

/-- The gradient of a constant plane is 0, since the weights of each side sum to 4 (43_canny.md R126). -/
theorem sobel_of_constant (hh : 0 < h) (hw : 0 < w) (hp : ConstantOn h w p x) (r c : Int) :
    sobelX (replicated h w p) r c = 0 ∧ sobelY (replicated h w p) r c = 0 := by
  have hflat : ∀ a b, replicated h w p a b = x.toNat := fun a b => by
    rw [replicated, hp _ _ (clampIdx_lt a hh) (clampIdx_lt b hw)]
  simp only [sobelX, sobelY, hflat, sub_self, and_self]

theorem constantOn_magPlane (hp : ConstantOn h w p x) :
    ConstantOn h w (written w (magPlane h w p)) 0 := by
  intro r c hr hc
  obtain ⟨hx, hy⟩ := sobel_of_constant (by omega) (by omega) hp r c
  rw [magPlane, written_grid _ hr hc, hx, hy]
  rfl

/-- A magnitude of 0 is below T_HIGH, so its pixel is not strong (43_canny.md R137). -/
theorem classOf_zero_ne_strong (kept : Bool) : classOf Config.magNorm kept 0 ≠ .strong := by
  cases kept <;> decide

/-- Without a magnitude no pixel is strong, and without a strong pixel nothing is an edge (43_canny.md
R140). -/
theorem edgePlane_of_zero_mag {mag : Nat → Nat → BitVec Config.magWidth} (nmsk : Nat → Nat → Bool)
    (hm : ConstantOn h w mag 0) :
    edgePlane h w (written w (clsPlane h w (fun r c => (mag r c).toNat) nmsk)) =
      List.replicate (h * w) false := by
  refine noStrongPixelNoEdge h w _ fun r c hr hc => ?_
  rw [clsPlane, written_grid _ hr hc, hm r c hr hc]
  exact classOf_zero_ne_strong _

/-- The EdgeMap of no edges is all NON_EDGE (44_flatten.md R150). -/
theorem edgeMap_of_no_edge :
    edgeMap h w (written w (List.replicate (h * w) false)) = List.replicate (h * w) 0 := by
  refine List.eq_replicate_iff.2 ⟨length_edgeMap _, fun b hb => ?_⟩
  obtain ⟨r, c, hr, hc, rfl⟩ := exists_of_mem_grid hb
  have hnone : written w (List.replicate (h * w) false) r c = false :=
    List.getD_replicate _ (rowMajor_lt hr hc)
  rw [hnone]
  rfl

theorem edgeMapOf_of_constant (hp : ConstantOn h w p x) :
    edgeMapOf h w p = List.replicate (h * w) 0 := by
  have hmag := constantOn_magPlane (constantOn_blurPlane (constantOn_hblurPlane hp))
  unfold edgeMapOf
  dsimp only
  rw [edgePlane_of_zero_mag _ hmag, edgeMap_of_no_edge]

end

/-- Settles O53: the luma indices are those below W·H, so the chroma bytes do not matter. -/
theorem constantFrameHasNoEdges : Obligations.ConstantFrameHasNoEdges := by
  intro maxPixels buf l w h x out hbuf hout
  obtain ⟨hw, hh, rfl⟩ := eq_edgeMapOf_of_processFrame hout
  have harea : ((h.toNat * w.toNat : Nat) : Int) = w * h := toNat_mul_toNat_cast hw hh
  have hluma : ConstantOn h.toNat w.toNat (fun r c => buf (rowMajor w.toNat r c)) x :=
    fun r c hr hc => hbuf _ (harea ▸ Int.ofNat_lt.2 (rowMajor_lt hr hc))
  rw [edgeMapOf_of_constant hluma, ← harea, Int.toNat_natCast]

end Sys2Proof.Machine
end

section
/-! Where a step can stop, and the interrupt line (60_exceptions.md R160, R170, R173). -/

namespace Sys2Proof.Machine

variable {s : State}

/-! ### The interrupt line (R170) -/

/-- `irq = CTRL.IE and (STATUS.DONE or STATUS.FAIL)`, in PHASE (R170; 10_state.md R16). -/
theorem irq_eq_true_iff : s.irq = true ↔ s.ie = true ∧ (s.phase = .complete ∨ s.phase = .failed) := by
  simp [State.irq, State.done, State.fail]

/-- Settles O19: a CTRL write keeps PHASE, so the line it leaves is the IE it has set. -/
theorem irqIsEnabledEndOfCall : Obligations.IrqIsEnabledEndOfCall := by
  intro s
  refine ⟨irq_eq_true_iff, fun hp v => ⟨{ s with ie := v.getLsbD 0 }, rfl, rfl, ?_⟩⟩
  exact Bool.eq_iff_iff.2 (irq_eq_true_iff.trans (and_iff_left hp))

/-! ### Refused accesses (R173) -/

/-- A register write of another size, or at an offset off the map, does not decode (20_memory.md
R41). -/
theorem decode_write_refused {x : Txn} (hs : x.select = .regWrite)
    (hx : x.size ≠ 4 ∨ ∃ d0 d1 d2 d3 o : Byte,
      x.bytes = [d0, d1, d2, d3, o] ∧ (o.toNat % 4 ≠ 0 ∨ 0x2C ≤ o.toNat)) :
    ∃ e, decode (.port x) = .error e := by
  obtain ⟨sel, size, bytes⟩ := x
  obtain rfl : sel = .regWrite := hs
  by_cases hsize : size = 4
  · obtain ⟨d0, d1, d2, d3, o, hb, ho⟩ := hx.resolve_left (not_not.2 hsize)
    obtain rfl : size = 4 := hsize
    obtain rfl : bytes = [d0, d1, d2, d3, o] := hb
    change ∃ e, (decodeOffset o).map _ = .error e
    rcases decodeOffset_refused ho with h | h <;> rw [h] <;> exact ⟨_, rfl⟩
  · exact ⟨.regNotWord, if_pos hsize⟩

/-- A host write to DST does not decode (20_memory.md R43). -/
theorem decode_dstWrite {x : Txn} (hs : x.select = .dstWrite) :
    decode (.port x) = .error .dstWrite := by
  obtain ⟨sel, size, bytes⟩ := x
  obtain rfl : sel = .dstWrite := hs
  rfl

/-- An access that does not decode is refused with the decoder's reason. -/
theorem hostStep_of_decode_error {x : Txn} {e : DecodeError} (hd : decode (.port x) = .error e) :
    hostStep (.access x) s = .refused (.hostAccess e) := by
  unfold hostStep; dsimp only; rw [hd]

theorem execSrcwr_refused {i : BitVec 32} (b : Byte) (hi : s.caps.srcCap ≤ i.toNat) :
    execSrcwr i b s = .refused .srcOutOfRange := if_neg (Nat.not_lt.2 hi)

theorem execSrcrd_refused {i : BitVec 32} (hi : s.caps.srcCap ≤ i.toNat) :
    execSrcrd i s = .refused .srcOutOfRange := if_neg (Nat.not_lt.2 hi)

theorem execDstrd_refused {i : BitVec 32} (hi : s.caps.maxPixels ≤ i.toNat) :
    execDstrd i s = .refused .dstOutOfRange := if_neg (Nat.not_lt.2 hi)

/-- Settles O4: a REG access off the map and a write to DST do not decode; an index outside its buffer
decodes, and its operation refuses it. -/
theorem refusedAccessesHaveNoStep : Obligations.RefusedAccessesHaveNoStep := by
  intro s t rest hin href
  have undecoded : (∃ e, decode (.port t) = .error e) → ∃ r, step s = .refused r :=
    fun ⟨_, he⟩ => ⟨_, (step_of_due hin (.inl rfl)).trans (hostStep_of_decode_error he)⟩
  have decoded {i : Instr} (hd : decode (.port t) = .ok i) :
      step s = exec i { s with inbox := rest } :=
    stepRunsTheDecodedAccess s 0 t rest i hin (.inl rfl) hd
  rcases href with ⟨hsel | hsel, hsize⟩ | ⟨o, ⟨hsel, hb⟩ | ⟨d0, d1, d2, d3, hsel, hb⟩, ho⟩ | hsel |
    ⟨i, b, hi, hd | hd⟩ | ⟨i, hi, hd⟩
  · exact undecoded (decode_read_refused hsel (.inl hsize))
  · exact undecoded (decode_write_refused hsel (.inl hsize))
  · exact undecoded (decode_read_refused hsel (.inr ⟨o, hb, by omega⟩))
  · exact undecoded (decode_write_refused hsel (.inr ⟨d0, d1, d2, d3, o, hb, ho⟩))
  · exact undecoded ⟨_, decode_dstWrite hsel⟩
  · exact ⟨_, (decoded hd).trans (execSrcwr_refused b hi)⟩
  · exact ⟨_, (decoded hd).trans (execSrcrd_refused hi)⟩
  · exact ⟨_, (decoded hd).trans (execDstrd_refused hi)⟩

/-! ### No fault in any run (R160) -/

/-- A decoded host access answers a next state, or names an index outside its buffer and is refused:
it never faults. -/
theorem exec_answers_of_decode (s : State) {x : Txn} {i : Instr} (hd : decode (.port x) = .ok i) :
    (∃ t, exec i s = .next t) ∨ (i.wellFormed s.caps = false ∧ ∃ r, exec i s = .refused r) := by
  rcases decodeTxn_cases hd with ⟨r, rfl⟩ | ⟨r, v, rfl⟩ | ⟨a, b, rfl⟩ | ⟨a, rfl⟩ | ⟨a, rfl⟩
  · exact .inl ⟨_, rfl⟩
  · rcases decodeWrite_cases r v with hw | hw | hw | ⟨hw, -⟩ <;> rw [hw] <;> exact .inl ⟨_, rfl⟩
  · rcases lt_or_ge a.toNat s.caps.srcCap with ha | ha
    · exact .inl ⟨_, execSrcwr_eq b ha⟩
    · exact .inr ⟨decide_eq_false (Nat.not_lt.2 ha), _, execSrcwr_refused b ha⟩
  · rcases lt_or_ge a.toNat s.caps.srcCap with ha | ha
    · exact .inl ⟨_, execSrcrd_eq ha⟩
    · exact .inr ⟨decide_eq_false (Nat.not_lt.2 ha), _, execSrcrd_refused ha⟩
  · rcases lt_or_ge a.toNat s.caps.maxPixels with ha | ha
    · exact .inl ⟨_, execDstrd_eq ha⟩
    · exact .inr ⟨decide_eq_false (Nat.not_lt.2 ha), _, execDstrd_refused ha⟩

/-- VALIDATE answers a next state, whatever the operands (41_validate_extract.md R100). -/
theorem execValidate_answers (s : State) : ∃ t, execValidate s = .next t := by
  cases he : validateError s.caps.maxPixels s.wInt s.hInt s.len with
  | some e => exact ⟨_, execValidate_error he⟩
  | none => exact ⟨_, execValidate_pass he⟩

/-- In a state of a run the engine answers a next state: VALIDATE always does, and after it the frame
fits the stores (41_validate_extract.md R105). -/
theorem engineStep_answers (hs : s.Inv) : ∃ t, engineStep s = .next t := by
  have run {i : Instr} (hd : decode (.phase (phaseCode s.phase)) = .ok i)
      (h : ∃ t, exec i s = .next t) : ∃ t, engineStep s = .next t :=
    h.imp fun _ ht => (engineStep_of_decode hd).trans ht
  have fits (hv : Phase.validated s.phase = true) : s.pixels ≤ s.caps.maxPixels := by
    obtain ⟨-, -, -, hfit⟩ := hs.frame_ok hv
    exact hfit
  obtain ⟨-, hcaps, -⟩ := hs.caps_wf
  cases hp : s.phase <;> rw [hp] at run fits
  case validate => exact run rfl (execValidate_answers s)
  case extract => exact run rfl ⟨_, execExtract_eq ((fits rfl).trans hcaps) (fits rfl)⟩
  case flatten => exact run rfl ⟨_, execFlatten_eq (fits rfl)⟩
  case idle | complete | failed => exact ⟨s, by unfold engineStep; rw [hp]; rfl⟩
  all_goals exact run rfl ⟨_, passPhase_eq _ _ (fits rfl)⟩

/-- In a state of a run a step answers a next state, or refuses a host access that decodes to no
well-formed operation (R173). -/
theorem step_answers (hs : s.Inv) :
    (∃ t, step s = .next t) ∨
    ((∃ r, step s = .refused r) ∧ ∃ n x rest, s.inbox = ⟨n, .access x⟩ :: rest ∧
      ∀ i, decode (.port x) = .ok i → i.wellFormed s.caps = false) := by
  rcases step_cases s with ⟨⟨n, e⟩, rest, hin, -, hstep⟩ | ⟨-, -, hstep⟩ | ⟨-, -, hstep⟩ <;>
    rw [hstep]
  · cases e with
    | reset => exact .inl ⟨_, rfl⟩
    | access x =>
      cases hd : decode (.port x) with
      | error e =>
        exact .inr ⟨⟨_, hostStep_of_decode_error hd⟩, n, x, rest, hin, fun i hi => by simp [hd] at hi⟩
      | ok i =>
        have hexec := hostStep_of_decode (s := { s with inbox := rest }) hd
        rcases exec_answers_of_decode { s with inbox := rest } hd with ⟨t, ht⟩ | ⟨hwf, r, hr⟩
        · exact .inl ⟨t, hexec.trans ht⟩
        · refine .inr ⟨⟨r, hexec.trans hr⟩, n, x, rest, hin, fun j hj => ?_⟩
          obtain rfl : i = j := Except.ok.inj (hd.symm.trans hj)
          exact hwf
  · obtain ⟨l, hl⟩ := passGap_eq s
    exact .inl (hl ▸ engineStep_answers (hs.inbox l))
  · exact .inl ⟨s, rfl⟩

/-- Settles O57. -/
theorem noFaultInAnyRun : Obligations.NoFaultInAnyRun := by
  intro s hs
  rcases step_answers hs with ⟨t, ht⟩ | ⟨⟨r, hr⟩, n, x, rest, hin, hill⟩
  · exact ⟨fun f => by simp [ht], fun _ => ⟨t, ht⟩⟩
  · refine ⟨fun f => by simp [hr], fun hwf => ?_⟩
    obtain ⟨i, hd, hi⟩ := hwf n x rest hin
    exact absurd hi (by simp [hill i hd])

end Sys2Proof.Machine
end

section
/-! A running call ends (70_reset_and_hazards.md R201), and a reset event reaches every register
(R190, R191). -/

namespace Sys2Proof.Machine

/-! ### A running call ends (R201) -/

/-- How many engine steps are left at most from a phase of a running call, and none from COMPLETE or
FAILED: the phase codes rise one by one from VALIDATE to COMPLETE (30_encoding.md R67). -/
def stepsLeft (p : Phase) : Nat := 10 - (phaseCode p).toNat

theorem stepsLeft_le_nine {p : Phase} (hb : Phase.busy p = true) : stepsLeft p ≤ 9 := by
  revert hb
  cases p <;> decide

/-- From a phase of a running call each successor is nearer the end, and none is IDLE
(10_state.md R14). -/
theorem stepsLeft_lt_of_busy {p : Phase} (hb : Phase.busy p = true) :
    ∀ q ∈ phaseSuccessors p, stepsLeft q < stepsLeft p ∧ q ≠ .idle := by
  revert hb
  cases p <;> decide

/-- No engine operation changes the host events to come. -/
theorem EngineMove.inbox {s t : State} (hm : EngineMove s t) : t.inbox = s.inbox := by
  cases hm <;> rfl

/-- A running call whose host is silent takes an engine step at a time, each nearer the end, until it
rests in COMPLETE or FAILED. -/
theorem run_ends_within_stepsLeft {s : State} (hs : s.Inv) (hb : s.busy = true)
    (hi : s.inbox = []) :
    ∃ k t, k ≤ stepsLeft s.phase ∧ Host.Core.run Sys2Proof.core k s = .next t ∧
      (t.phase = .complete ∨ t.phase = .failed) := by
  obtain ⟨t, ht⟩ := engineStep_answers hs
  have hm : EngineMove s t := engineMove_of_engineStep hb ht
  obtain ⟨hlt, hidle⟩ := stepsLeft_lt_of_busy hb t.phase hm.phase
  cases hbt : t.busy with
  | false =>
    exact ⟨1, t, by omega, run_of_busy 0 hb hi ht rfl, (busy_eq_false_iff.1 hbt).resolve_left hidle⟩
  | true =>
    obtain ⟨k, u, hk, hrun, hend⟩ := run_ends_within_stepsLeft (hm.inv hs) hbt (hm.inbox.trans hi)
    exact ⟨k + 1, u, by omega, run_of_busy k hb hi ht hrun, hend⟩
termination_by stepsLeft s.phase

/-- Settles O54: nine is what is left from VALIDATE. -/
theorem everyCallEndsWithinNineSteps : Obligations.EveryCallEndsWithinNineSteps := by
  intro s hs hb hi
  obtain ⟨k, t, hk, hrun, hend⟩ := run_ends_within_stepsLeft hs hb hi
  exact ⟨k, t, hk.trans (stepsLeft_le_nine hb), hrun, hend⟩

/-! ### Reset (R190, R191) -/

/-- A reset takes every register but CAP, which follows the capacities, to what it reads as right
after reset, whatever the state (10_state.md R27). -/
theorem readReg_hardReset (s : State) {r : Reg} (hr : r ≠ .cap) :
    s.hardReset.readReg r = State.reset.readReg r := by
  cases r with
  | cap => exact absurd rfl hr
  | _ => rfl

/-- Settles O58: a due reset event is the step, and it is the reset of the rest of the state. -/
theorem resetTakesEveryRegisterToItsValue : Obligations.ResetTakesEveryRegisterToItsValue := by
  intro s n rest hi hdue
  have hreg {r : Reg} (hr : r ≠ .cap) := readReg_hardReset { s with inbox := rest } hr
  exact ⟨_, step_of_due hi hdue, rfl, hreg nofun, hreg nofun, hreg nofun, rfl, rfl, hreg nofun,
    hreg nofun, hreg nofun, hreg nofun, hreg nofun, hreg nofun, hreg nofun, rfl, fun _ => rfl,
    fun _ => rfl, rfl⟩

end Sys2Proof.Machine
end
